-- ==== Sys2Proof/Word.lean ====
section
/-!
DEFINITION. The word types and their plainest arithmetic.
-/

namespace Sys2Proof

/-- A byte of memory. -/
abbrev Byte := BitVec 8
/-- A 32-bit register word. -/
abbrev Word := BitVec 32
/-- A 64-bit word of the generator and of the exact integer sums. -/
abbrev DWord := BitVec 64
/-- A 16-byte instruction word, delta flit or edge record. -/
abbrev QWord := BitVec 128

/-- Bits `lo` to `lo + w - 1` of a natural number. -/
def bits (n lo w : Nat) : Nat := (n / 2 ^ lo) % 2 ^ w

/-- Bit `i` of a natural number. -/
def bit (n i : Nat) : Bool := (n / 2 ^ i) % 2 = 1

end Sys2Proof
end

