-- ==== Sys2Proof/Syntax.lean ====
section
/-!
DEFINITION. The commands of the block: one constructor of `Instr` per row of the opcode table, with the row's
operands, and the operand types.
-/

namespace Sys2Proof

/-- A host port and its partition. -/
inductive Port where
  | a | b
  deriving DecidableEq, Repr

def Port.idx : Port → Nat
  | .a => 0 | .b => 1
def Port.other : Port → Port
  | .a => .b | .b => .a
def Port.ofIdx (n : Nat) : Port := if n = 0 then .a else .b

/-- Who asks for an access to a bank or a vault (R219, R255). -/
inductive Who where
  | take (p : Port)
  | pump (n : Nat)
  | window (p : Port)
  | control
  | capture (p : Port)
  | remote (link : Nat)
  deriving DecidableEq, Repr

/-- How a checked transfer went: clean; failed once and clean on its one retry; failed twice, correct data
delivered; failed twice, data lost (R229, R235, R352). -/
inductive Check where
  | clean | transient | lasting | lost
  deriving DecidableEq, Repr

/-- Who writes a register: the host of a port, or the sideband (R422). -/
inductive Writer where
  | host (p : Port)
  | sideband
  deriving DecidableEq, Repr

/-- A flit that arrives at an input port of a router (1 north to 5 local) with its sideband, and what the sender
repeats if the first copy fails its CRC (R249). -/
structure MeshIn where
  port : Nat
  payload : Nat
  side : Nat
  again : Option (Nat × Nat)
  deriving DecidableEq, Repr

/-- A member of a take that waits, by its place in the take's members, and how many beats. -/
structure Wait where
  port : Port
  member : Nat
  beats : Nat
  deriving DecidableEq, Repr

/-- What a power-up finds: whether the module record's factory section and a field-section copy verify (R398), the
DRAM rows whose self-test fails (vault, internal bank, line) and the sites whose BIST fails (R401). -/
structure PowerUp where
  factoryOk : Bool
  fieldOk : Bool
  badRows : List (Nat × Nat × Nat)
  badSites : List Nat
  deriving DecidableEq, Repr

/-- Events that reset one port (R331). -/
inductive PortEvent where
  | perst | flr | hotReset | dlDown
  deriving DecidableEq, Repr

/-- Triggers of a whole-device reset (R403) beside both PERST#. -/
inductive Trigger where
  | sideband | controlComplex
  deriving DecidableEq, Repr

/-- What waits for a condition: a member of a take at a WAIT_SEM, or a pump engine at a WAIT, and after how many
beats. -/
inductive Waiter where
  | member (p : Port) (k : Nat)
  | engine (n beats : Nat)
  deriving DecidableEq, Repr

/-- PLDM type 5 messages: the firmware commands, an image coming with WRITE (R409). -/
inductive PldmFw where
  | write (image : List Byte)
  | verify
  | activate
  | cancel
  deriving DecidableEq, Repr

/-- The commands, one constructor per row of the opcode table. -/
inductive Instr where
  /- Takes and their clapper (chapter 9). `p` the partition; `m` a mailbox command of 32 bytes; `id` a logical clapper
  identifier. -/
  | takeLoad (p : Port) (m : Nat)
  | validationDone (p : Port)
  | writingDone (p : Port)
  | takeGo (p : Port) (m : Nat)
  | takeAbort (p : Port) (m : Nat)
  | takeUnload (p : Port) (m : Nat)
  | posting (p : Port)
  | occurrenceRelease (p : Port) (id : Nat)
  | reelCapture (p : Port)
  | watchdogExpiry (p : Port) (id : Nat)
  | stepClapperRelease (p : Port)
  | frameEnd (p : Port)
  /- Script instructions (chapters 3 to 9): the next word of member `k` of the take of partition `p`. Where a word leaves
  to the plan which tiles a strip goes to, or in which format, the command names them. -/
  | nop (p : Port) (k : Nat)
  | endScript (p : Port) (k : Nat)
  | clap (p : Port) (k : Nat)
  | clapCut (p : Port) (k : Nat)
  | clapEarly (p : Port) (k : Nat)
  | loop (p : Port) (k : Nat)
  | mark (p : Port) (k : Nat)
  | waitSem (p : Port) (k : Nat)
  | postSem (p : Port) (k : Nat)
  | fetchSvc (p : Port) (k : Nat)
  | fieldInit (p : Port) (k : Nat)
  | sweep (p : Port) (k : Nat)
  | sweepSync (p : Port) (k : Nat)
  | sampleTap (p : Port) (k : Nat)
  | stateInit (p : Port) (k : Nat)
  | trueInit (p : Port) (k : Nat)
  | sampleTrue (p : Port) (k : Nat)
  | stripSend (p : Port) (k : Nat) (dsts : List Nat) (fmt : Nat)
  | energyShare (p : Port) (k : Nat)
  | reduceSend (p : Port) (k : Nat)
  /- Items that arrive at tiles and engines, and lattice rounds (chapters 3, 4, 6). -/
  | deltaFlit (p : Port) (payload : List Nat)
  | gateDelta (p : Port) (flit : Nat)
  | edgeRecord (p : Port) (flit : Nat)
  | fieldStrip (p : Port) (i entry : Nat)
  | stateStrip (p : Port) (i base row rows cols fmt : Nat)
  | roundNotice (p : Port) (tile notice : Nat)
  | round (p : Port)
  | cisternInsert (p : Port)
  /- Matrix engine instructions (chapter 6). -/
  | mma (p : Port) (k : Nat)
  | mmaFlip (p : Port) (k : Nat)
  | mmaOuter (p : Port) (k : Nat)
  | drain (p : Port) (k : Nat)
  | fieldSet (p : Port) (k : Nat) (dsts : List Nat)
  | fieldDiff (p : Port) (k : Nat) (dsts : List Nat)
  | load (p : Port) (k : Nat)
  | store (p : Port) (k : Nat)
  | setGroups (p : Port) (k : Nat)
  /- Vector engine instructions (chapter 8). -/
  | vnop (p : Port) (k : Nat)
  | vadd (p : Port) (k : Nat)
  | vsub (p : Port) (k : Nat)
  | vmul (p : Port) (k : Nat)
  | vfma (p : Port) (k : Nat)
  | vmax (p : Port) (k : Nat)
  | vcvt (p : Port) (k : Nat)
  | vsum (p : Port) (k : Nat)
  | vdot (p : Port) (k : Nat)
  | vln (p : Port) (k : Nat)
  | vnorm (p : Port) (k : Nat)
  | vnoise (p : Port) (k : Nat)
  | vrand (p : Port) (k : Nat)
  | vmove (p : Port) (k : Nat)
  | eacc (p : Port) (k : Nat)
  | eblock (p : Port) (k : Nat)
  | combine (p : Port) (k : Nat)
  | wupdate (p : Port) (k : Nat)
  | checkRow (p : Port) (k : Nat)
  | ladderRound (p : Port) (k : Nat)
  /- The clapper script (chapter 9). -/
  | phase (p : Port) (k : Nat)
  | cut (p : Port) (k : Nat)
  | watchdog (p : Port) (k : Nat)
  /- Mesh and service arbiters (chapter 11): router column and row; arbiter instance and port. -/
  | meshFlit (c r beat : Nat) (ins : List MeshIn) (wait : Option Wait)
  | serviceRequest (i q : Nat) (reqs : List (Nat × Nat)) (beat : Nat)
  | arbiterDecision (i q beat : Nat)
  | revocation (i q beat : Nat)
  | withdrawal (i q beat : Nat)
  | burstExpiry (i q beat : Nat)
  /- Scratchpads and vaults (chapter 10): column and bank, vault. -/
  | bankOwnerWrite (w : Writer) (c b v : Nat)
  | handoverComplete (c b : Nat)
  | bankPowerRequest (w : Writer) (c b req : Nat)
  | bankTransitionDone (c b : Nat)
  | sramAccess (who : Who) (addr len : Nat) (data : Option (List Byte)) (e : Check)
  | mergeWrite (c b : Nat)
  | testRegion (c : Nat) (e : Check)
  | testSkipBank (c : Nat)
  | vaultAccess (who : Who) (addr len : Nat) (data : Option (List Byte)) (e : Check) (member beat : Nat)
  | refresh (v : Nat) (delayed : List Wait)
  | layerSensorReading (c layer temp : Nat)
  | scrubLine (v : Nat) (e : Check)
  | vaultClear (w : Writer) (v : Nat)
  | vaultClearDone (v : Nat)
  | lockRequest (vault : Bool) (c n a : Nat)
  /- Wells and pumps (chapter 12): well, engine, completion ring. `n` is the engine. -/
  | doorbell (p : Port) (well value : Nat)
  | programStart (n waited : Nat)
  | move (n : Nat)
  | fill (n : Nat)
  | compare (n : Nat)
  | pumpLoop (n : Nat)
  | wait (n : Nat)
  | waitConditionMet (x : Waiter)
  | waitTimeout (n : Nat)
  | signal (n : Nat)
  | pumpEnd (n : Nat)
  | pumpFault (n cause dir space addr : Nat) (again : Bool)
  | stop (w : Writer) (well : Nat)
  | resume (w : Writer) (well : Nat)
  | skip (w : Writer) (well : Nat)
  | wellCfgWrite (w : Writer) (well v : Nat)
  | cringCfgWrite (w : Writer) (ring v : Nat)
  | cringHeadWrite (w : Writer) (ring head : Nat)
  /- Host ports and registers (chapters 14, 5, 21). A block is named by its type and instance (R437);
  `bar4` says that the offset is one of BAR4. -/
  | bar2Read (p : Port) (off n : Nat)
  | bar2Write (p : Port) (off : Nat) (data : List Byte) (badEcrc : Bool)
  | registerWrite (w : Writer) (bar4 : Bool) (addr n v : Nat)
  | counterLowRead (w : Writer) (bar4 : Bool) (addr n : Nat)
  | readClear (w : Writer) (addr n : Nat)
  | cntClear (w : Writer) (ty inst : Nat)
  | errClear (w : Writer) (ty inst : Nat)
  | retryClear (w : Writer) (ty inst : Nat)
  | errStatusWrite (w : Writer) (ty inst v : Nat)
  | errInject (w : Writer) (ty inst mode : Nat)
  | debugRead (w : Writer) (q : Nat)
  | genGo (w : Writer) (p : Port) (ctrl : Nat)
  | genEvalDone (p : Port)
  /- Reel page commands (chapter 15). -/
  | reelVerify (p : Port)
  | restore (p : Port) (fails : Option Nat)
  | keygen (p : Port)
  | keyload (p : Port)
  | keyclear (p : Port)
  /- Repair, partition and identity commands (chapters 14, 16, 21). `p` is the port whose page is written. -/
  | bist (w : Writer) (p : Port)
  | reload (w : Writer) (p : Port)
  | substitution
  | apply (w : Writer)
  | copy (w : Writer)
  | planApplied
  | hostIfaceReq (w : Writer) (p : Port) (low high : Nat)
  | devIdWrite (w : Writer) (v : Nat)
  /- The sluice (chapter 17). -/
  | budgetRequest (w : Writer) (reg v : Nat)
  | sluShareWrite (w : Writer) (v : Nat)
  | vcoreSet (w : Writer) (mv : Nat)
  | throttleDecision (ty inst est total : Nat)
  | throttleStepDown (ty inst : Nat)
  | coreWideThrottle (ty inst total : Nat)
  | coreWideRelease (total : Nat)
  | droop (mv : Nat)
  | droopRelease (mv : Nat)
  | thermalFactor (temps : List Nat)
  | thermalTrip (column temp : Nat)
  /- The entropy source (chapter 18). -/
  | rawSample (c : Nat) (sample : Bool)
  | startupTestDone (c : Nat)
  | kat (fail : Option Nat) (again : Bool)
  | entRingCfgWrite (w : Writer) (p : Port) (i v : Nat)
  | entRingTail (w : Writer) (p : Port) (i tail : Nat)
  | entRequestServe (p : Port) (i entry : Nat) (hostErr : Bool)
  | trngRawRead (w : Writer) (p : Port)
  /- Firmware, power and reset (chapters 14, 19). -/
  | fwWrite (w : Writer)
  | fwVerify (w : Writer)
  | activate (w : Writer)
  | cancel (w : Writer)
  | activationStart (alive : Bool)
  | revert
  | portReset (p : Port) (e : PortEvent) (u : PowerUp)
  | wholeDeviceReset (t : Trigger) (u : PowerUp)
  | powerUp (u : PowerUp)
  | powerDown
  | inputFault
  | inputRestored (u : PowerUp)
  /- The sideband and the cages (chapter 20). -/
  | regRead (addr count : Nat)
  | regWrite (addr : Nat) (words : List Nat)
  | reset (u : PowerUp)
  | pldmSensorRead (sensor sensed : Nat)
  | pldmFirmwareUpdate (x : PldmFw)
  | touch (k ms : Nat)
  | attentionButton (k : Nat)
  | undrain (w : Writer) (i : Nat)
  | linkDrained (i : Nat)
  | cableInsert (k : Nat) (osfp8 : Bool) (power ident : Nat)
  | cableReady (k : Nat) (fault : Bool)
  | cableRemoved (k : Nat)
  /- Solcorin links (chapter 13): link, gateway; a flit as a 2,048-bit number. -/
  | retrain (w : Writer) (i : Nat)
  | recal (w : Writer) (i : Nat)
  | linkTrained (i dev plink offer family : Nat)
  | linkTrainFail (i : Nat)
  | linkTrainRetry (i : Nat)
  | linkTransmit (i : Nat) (wait : Option Wait)
  | linkControlWord (i word c0 c1 : Nat)
  | linkFlitError (i seq : Nat) (uncorr : Bool) (wait : Option Wait)
  | linkScheduledFlit (i flit : Nat)
  | recoveryFlit (l seq vc body : Nat)
  | forkRelease (q flow : Nat)
  | mcastStall (q flow : Nat)
  | arrive (i flit : Nat)
  | release (i flit : Nat)
  | clapStop (i flit : Nat)
  | serviceWrite (i flit : Nat)
  | readRequest (i flit : Nat)
  | readResponse (i flit : Nat)
  | errorResponse (i flit : Nat)
  | linkManagement (i flit : Nat) (drain : Bool)
  | lossOfSignal (i : Nat)
  /- Events of the host ports, and ends of work in progress. -/
  | pcieLinkUp (p : Port) (rate width : Nat) (flit ecrc : Bool) (bar2 : Nat)
  | perstRelease (p : Port)
  | powerStateChange (p : Port) (d3 : Bool)
  | hostCompletion (n i status : Nat) (data : List Byte)
  | captureDone (p : Port)
  | reelCommandDone (p : Port)
  | repairCommandDone (p : Port) (pass : Bool)
  | substitutionDone (pass : Bool)
  | fwCommandDone (flashErr : Bool)
  | recalibrationDone (i : Nat)
  | debugUartInput (b : Nat)
  deriving DecidableEq, Repr

end Sys2Proof
end

