-- ==== Sys2Proof/Config.lean ====
section
/-!
DEFINITION. What the spec leaves open: free values (constants with no body, so nothing can be proved about
which value they are).
-/

namespace Sys2Proof

/-- A value the spec leaves undefined or does not state; `Dev.free` counts the ones used so far (log 7). -/
opaque Config.freeWord : Nat → BitVec 64

/-- Local address at which the result of a reduction slot lands, by partition, words of the route set in force and slot
(R165: the route sets name the destination, and no register or field of the spec holds the address; log 28). -/
opaque Config.redDest : Nat → List Nat → Nat → Nat

/-- Word format of a reduction slot where the nodes of a take's tables differ, by the words of the route set: true for
FP32 (R166, R250: which nodes a slot uses no field of the spec says; log 28). -/
opaque Config.redFp : List Nat → Nat → Bool

/-- The major-4 call sheet into which the firmware translates a major-3 one (R413: the IKV3 layouts are not
given; log 39). -/
opaque Config.translate : List Byte → List Byte

/-- Does an Ed25519 signature verify over a message under a boot-ROM firmware key (R407: the keys are not given;
log 171)? -/
opaque Config.edVerify : Nat → List Byte → List Byte → Bool

end Sys2Proof
end

