-- ==== Sys2Proof/Machine/Crypto.lean ====
section
/-!
DEFINITION. The cyclic redundancy checks of the formats (CRC-32C, CRC-16), and the AES-256 constructions the
spec names: CTR_DRBG with the derivation function (R387, NIST SP 800-90A) and GCM (R344).
-/

namespace Sys2Proof.Machine

/-! ### CRC -/

/-- `n` bits of a CRC whose polynomial is reflected. -/
def crcStepRefl (poly : Nat) : Nat → Nat → Nat
  | 0, c => c
  | n + 1, c => if c % 2 = 1 then crcStepRefl poly n ((c / 2) ^^^ poly) else crcStepRefl poly n (c / 2)

/-- CRC-32C of a byte list. -/
def crc32c (bs : List Byte) : Nat :=
  (bs.foldl (fun c b => crcStepRefl 0x82F63B78 8 (c ^^^ b.toNat)) 0xFFFFFFFF) ^^^ 0xFFFFFFFF

/-- `n` bits of the CRC-16, most significant first. -/
def crcStep16 : Nat → Nat → Nat
  | 0, c => c
  | n + 1, c => if bit c 15 then crcStep16 n (((2 * c) ^^^ 0x1021) % 2 ^ 16) else crcStep16 n (2 * c % 2 ^ 16)

/-- CRC-16, polynomial 0x1021, initial value 0xFFFF, no reflection and no final complement (R249). -/
def crc16 (bs : List Byte) : Nat :=
  bs.foldl (fun c b => crcStep16 8 (c ^^^ (b.toNat * 256))) 0xFFFF

/-! ### AES-256. A block is sixteen bytes, first byte first. -/

/-- The AES substitution box, sixteen bytes to a row, entry 0 of a row in its low byte. -/
def sboxRows : List Nat := [
  0x76ABD7FE2B670130C56F6BF27B777C63,
  0xC072A49CAFA2D4ADF04759FA7DC982CA,
  0x1531D871F1E5A534CCF73F362693FDB7,
  0x75B227EBE28012079A059618C323C704,
  0x842FE329B3D63B52A05A6E1B1A2C8309,
  0xCF584C4A39BECB6A5BB1FC20ED00D153,
  0xA89F3C507F02F94585334D43FBAAEFD0,
  0xD2F3FF1021DAB6BCF5389D928F40A351,
  0x73195D643D7EA7C41744975FEC130CCD,
  0xDB0B5EDE14B8EE4688902A22DC4F8160,
  0x79E4959162ACD3C25C2406490A3A32E0,
  0x08AE7A65EAF4566CA94ED58D6D37C8E7,
  0x8A8BBD4B1F74DDE8C6B4A61C2E2578BA,
  0x9E1DC186B95735610EF6034866B53E70,
  0xDF2855CEE9871E9B948ED9691198F8E1,
  0x16BB54B00F2D99416842E6BF0D89A18C ]

def sbox (x : Nat) : Nat := bits (sboxRows.getD (x / 16) 0) (8 * (x % 16)) 8

def xtime (b : Nat) : Nat := if 128 ≤ b then (2 * b % 256) ^^^ 0x1B else 2 * b

def xorBytes (a b : List Nat) : List Nat := List.zipWith (fun x y => x ^^^ y) a b

/-- The key schedule: four-byte words, newest first; `i` counts from 8 to 59. -/
def aesExpand : Nat → Nat → List (List Nat) → Nat → List (List Nat)
  | 0, _, ws, _ => ws
  | n + 1, i, ws, rcon =>
    let t := ws.headD []
    let t' :=
      if i % 8 = 0 then
        let r := ((t.drop 1) ++ (t.take 1)).map sbox
        match r with
        | a :: rest => (a ^^^ rcon) :: rest
        | [] => []
      else if i % 8 = 4 then t.map sbox else t
    let w := xorBytes (ws.getD 7 []) t'
    aesExpand n (i + 1) (w :: ws) (if i % 8 = 0 then xtime rcon else rcon)

def chunk4 : Nat → List Nat → List (List Nat)
  | 0, _ => []
  | n + 1, l => l.take 4 :: chunk4 n (l.drop 4)

/-- Fifteen round keys of sixteen bytes. -/
def aesKeys (key : List Nat) : List (List Nat) :=
  let ws := (aesExpand 52 8 (chunk4 8 key).reverse 1).reverse
  (List.range 15).map fun r => ((ws.drop (4 * r)).take 4).flatten

def shiftRows (s : List Nat) : List Nat :=
  (List.range 16).map fun i => s.getD ((i + 4 * (i % 4)) % 16) 0

def mixColumn : List Nat → List Nat
  | [a, b, c, d] =>
    [ xtime a ^^^ (xtime b ^^^ b) ^^^ c ^^^ d, a ^^^ xtime b ^^^ (xtime c ^^^ c) ^^^ d,
      a ^^^ b ^^^ xtime c ^^^ (xtime d ^^^ d), (xtime a ^^^ a) ^^^ b ^^^ c ^^^ xtime d ]
  | l => l

def mixColumns (s : List Nat) : List Nat := ((chunk4 4 s).map mixColumn).flatten

def aesRounds : List (List Nat) → List Nat → List Nat
  | [], s => s
  | [k], s => xorBytes (shiftRows (s.map sbox)) k
  | k :: ks, s => aesRounds ks (xorBytes (mixColumns (shiftRows (s.map sbox))) k)

/-- One block under expanded keys. -/
def aesBlock (ks : List (List Nat)) (blk : List Nat) : List Nat :=
  match ks with
  | k0 :: rest => aesRounds rest (xorBytes blk k0)
  | [] => blk

/-- A natural number as `n` bytes, most significant first, and back. -/
def toBytesBE : Nat → Nat → List Nat
  | 0, _ => []
  | n + 1, v => toBytesBE n (v / 256) ++ [v % 256]
def ofBytesBE (bs : List Nat) : Nat := bs.foldl (fun a b => 256 * a + b) 0

/-! ### CTR_DRBG with AES-256 and the derivation function -/

/-- Working state of an instance: V, Key and the reseed counter (R343, R387). -/
structure Drbg where
  v : Nat := 0
  key : List Nat := []
  ctr : Nat := 0
  deriving DecidableEq, Repr

/-- `n` blocks of the counter stream after V. -/
def ctrBlocks (ks : List (List Nat)) : Nat → Nat → List Nat
  | 0, _ => []
  | n + 1, v =>
    let v' := (v + 1) % 2 ^ 128
    aesBlock ks (toBytesBE 16 v') ++ ctrBlocks ks n v'

/-- CTR_DRBG_Update. -/
def drbgUpdate (d : Drbg) (seed : List Nat) : Drbg :=
  let t := xorBytes (ctrBlocks (aesKeys d.key) 3 d.v) seed
  { d with key := t.take 32, v := ofBytesBE (t.drop 32) }

def bccAux (ks : List (List Nat)) : Nat → List Nat → List Nat → List Nat
  | 0, _, c => c
  | n + 1, data, c => bccAux ks n (data.drop 16) (aesBlock ks (xorBytes c (data.take 16)))

/-- Block_Cipher_df for 48 bytes. -/
def blockCipherDf (input : List Nat) : List Nat :=
  let s0 := toBytesBE 4 input.length ++ toBytesBE 4 48 ++ input ++ [0x80]
  let s := s0 ++ List.replicate ((16 - s0.length % 16) % 16) 0
  let ks := aesKeys (List.range 32)
  let bcc (i : Nat) : List Nat :=
    let d := toBytesBE 4 i ++ List.replicate 12 0 ++ s
    bccAux ks (d.length / 16) d (List.replicate 16 0)
  let t := bcc 0 ++ bcc 1 ++ bcc 2
  let ks2 := aesKeys (t.take 32)
  let x1 := aesBlock ks2 (t.drop 32)
  let x2 := aesBlock ks2 x1
  let x3 := aesBlock ks2 x2
  x1 ++ x2 ++ x3

/-- Instantiation from the entropy bytes (input and nonce together) and the personalisation string. -/
def drbgInstantiate (entropy pers : List Nat) : Drbg :=
  let d := drbgUpdate ⟨0, List.replicate 32 0, 0⟩ (blockCipherDf (entropy ++ pers))
  { d with ctr := 1 }

def drbgReseed (d : Drbg) (entropy : List Nat) : Drbg :=
  { drbgUpdate d (blockCipherDf entropy) with ctr := 1 }

/-- One generate call of `n` bytes. -/
def drbgGenerate (d : Drbg) (n : Nat) : List Nat × Drbg :=
  let blocks := (n + 15) / 16
  let out := ctrBlocks (aesKeys d.key) blocks d.v
  let d1 := { d with v := (d.v + blocks) % 2 ^ 128 }
  (out.take n, { drbgUpdate d1 (List.replicate 48 0) with ctr := d.ctr + 1 })

/-! ### AES-256-GCM with a 96-bit nonce -/

/-- Product in the field of GHASH, most significant bit first. -/
def ghashMulAux (x : Nat) : Nat → Nat → Nat → Nat
  | 0, _, z => z
  | n + 1, v, z =>
    let z' := if bit x n then z ^^^ v else z
    ghashMulAux x n (if v % 2 = 1 then (v / 2) ^^^ (0xE1 * 2 ^ 120) else v / 2) z'

def ghashMul (x y : Nat) : Nat := ghashMulAux x 128 y 0

def ghashAux (h : Nat) : Nat → List Nat → Nat → Nat
  | 0, _, y => y
  | n + 1, data, y =>
    let b := data.take 16
    let blk := ofBytesBE (b ++ List.replicate (16 - b.length) 0)
    ghashAux h n (data.drop 16) (ghashMul (y ^^^ blk) h)

/-- GHASH over a byte list, zero-padded to whole blocks. -/
def ghash (h : Nat) (data : List Nat) (y : Nat) : Nat := ghashAux h ((data.length + 15) / 16) data y

def gctr (ks : List (List Nat)) (iv : List Nat) : Nat → Nat → List Nat → List Nat
  | 0, _, _ => []
  | n + 1, c, data =>
    xorBytes (aesBlock ks (iv ++ toBytesBE 4 c)) (data.take 16) ++ gctr ks iv n (c + 1) (data.drop 16)

/-- Encryption or decryption of the data under GCM's counter mode. -/
def gcmCrypt (key nonce data : List Nat) : List Nat :=
  gctr (aesKeys key) nonce ((data.length + 15) / 16) 2 data

/-- The tag over additional data and ciphertext. -/
def gcmTag (key nonce aad cipher : List Nat) : List Nat :=
  let ks := aesKeys key
  let h := ofBytesBE (aesBlock ks (List.replicate 16 0))
  let y := ghash h cipher (ghash h aad 0)
  let y := ghashMul (y ^^^ (aad.length * 8 * 2 ^ 64 + cipher.length * 8)) h
  xorBytes (toBytesBE 16 y) (aesBlock ks (nonce ++ [0, 0, 0, 1]))

end Sys2Proof.Machine
end

