-- ==== Sys2Proof/Machine/Regs.lean ====
section
/-!
DEFINITION. The register reference: every BAR0 page, every register of it and every field, with access
code, reset value and reserved codes, as the register tables of the spec give them (R12, R13, R432, R438
and the page tables of the chapters). A field is the unit of storage: `fieldKey off lo` names it.
-/

namespace Sys2Proof.Machine

/-- Access codes of R12. -/
inductive Acc where
  | rw | ro | wo | w1c | w1s | rc
  deriving DecidableEq, Repr

/-- One field of a register: where it lies, how it is accessed, what it holds after reset, and which
values are not reserved codes (R13), and whether writing 1 clears the page's counters (R82, R83). -/
structure Field where
  name : String
  lo : Nat
  width : Nat
  acc : Acc
  reset : Nat := 0
  ok : Nat → Bool := fun _ => true
  clr : Bool := false

/-- A register, or `count` registers `stride` bytes apart, at a page offset. -/
structure RegRow where
  off : Nat
  fields : List Field
  count : Nat := 1
  stride : Nat := 4

/-- The pages of BAR0 (R438, R441), each with the index its base formula uses. -/
inductive Page where
  | cc | ident | mbox (p : Nat) | part | sluice | entCell | entPort (p : Nat) | gen (p : Nat)
  | reel (p : Nat) | rep (p : Nat) | fw | clap
  | hp (p : Nat)
  | router (c r : Nat) | slot (c r : Nat)
  | tile (s : Nat) | me (q : Nat) | ve (e : Nat)
  | vc (c : Nat) | arb (i : Nat)
  | pump (n : Nat) | well (w : Nat) | wellHdr | cring (i : Nat) | sem (s : Nat)
  | link (i : Nat) | gw (q : Nat) | routeHdr | route (d : Nat)
  | cage (k : Nat) | modPage
  deriving DecidableEq, Repr

/-- BAR0 byte offset of a page's first byte (R438, R441, R266). -/
def Page.base : Page → Nat
  | .cc => 0x0000000
  | .ident => 0x0001000
  | .mbox p => 0x0002000 + p * 0x1000
  | .part => 0x0004000
  | .sluice => 0x0005000
  | .entCell => 0x0006000
  | .entPort p => 0x0007000 + p * 0x1000
  | .gen p => 0x0009000 + p * 0x1000
  | .reel p => 0x000B000 + p * 0x1000
  | .rep p => 0x000D000 + p * 0x1000
  | .fw => 0x000F000
  | .clap => 0x0010000
  | .hp p => 0x0100000 + p * 0x1000
  | .router c r => 0x0200000 + (11 * c + r) * 0x2000
  | .slot c r => 0x0200000 + (11 * c + r) * 0x2000 + 0x1000
  | .tile s => 0x0400000 + s * 0x4000
  | .me q => 0x0800000 + q * 0x10000
  | .ve e => 0x0900000 + e * 0x4000
  | .vc c => 0x0A00000 + c * 0x10000
  | .arb i =>
      if i < 64 then 0x0A00000 + (i / 4) * 0x10000 + 0x8000 + (i % 4) * 0x1000
      else 0x0C80000 + (i - 64) * 0x1000
  | .pump n => 0x0C00000 + n * 0x4000
  | .well w => 0x1000000 + 32 * w
  | .wellHdr => 0x1200000
  | .cring i => 0x1210000 + 32 * i
  | .sem s => 0x1230000 + 4 * s
  | .link i => 0x1400000 + i * 0x1000
  | .gw q => 0x1440000 + q * 0x20000
  | .routeHdr => 0x14C0000
  | .route d => 0x14C1000 + 8 * d
  | .cage k => 0x1500000 + k * 0x1000
  | .modPage => 0x1510000

/-- The page a BAR0 offset lies in, and the offset within it; none in a reserved range (R438). -/
def pageOf (a : Nat) : Option (Page × Nat) :=
  if a < 0x0011000 then
    let o := a % 0x1000
    match a / 0x1000 with
    | 0 => some (.cc, o)
    | 1 => some (.ident, o)
    | 2 => some (.mbox 0, o)
    | 3 => some (.mbox 1, o)
    | 4 => some (.part, o)
    | 5 => some (.sluice, o)
    | 6 => some (.entCell, o)
    | 7 => some (.entPort 0, o)
    | 8 => some (.entPort 1, o)
    | 9 => some (.gen 0, o)
    | 10 => some (.gen 1, o)
    | 11 => some (.reel 0, o)
    | 12 => some (.reel 1, o)
    | 13 => some (.rep 0, o)
    | 14 => some (.rep 1, o)
    | 15 => some (.fw, o)
    | _ => some (.clap, o)
  else if a < 0x0100000 then none
  else if a < 0x0102000 then some (.hp ((a - 0x0100000) / 0x1000), a % 0x1000)
  else if a < 0x0200000 then none
  else if a < 0x0360000 then
    let n := (a - 0x0200000) / 0x2000
    let o := a % 0x2000
    if o < 0x1000 then some (.router (n / 11) (n % 11), o)
    else some (.slot (n / 11) (n % 11), o - 0x1000)
  else if a < 0x0400000 then none
  else if a < 0x0640000 then some (.tile ((a - 0x0400000) / 0x4000), a % 0x4000)
  else if a < 0x0800000 then none
  else if a < 0x0840000 then some (.me ((a - 0x0800000) / 0x10000), a % 0x10000)
  else if a < 0x0900000 then none
  else if a < 0x0940000 then some (.ve ((a - 0x0900000) / 0x4000), a % 0x4000)
  else if a < 0x0A00000 then none
  else if a < 0x0B00000 then
    let c := (a - 0x0A00000) / 0x10000
    let o := a % 0x10000
    if 0x8000 ≤ o && o < 0xC000 then some (.arb (4 * c + (o - 0x8000) / 0x1000), o % 0x1000)
    else some (.vc c, o)
  else if a < 0x0C00000 then none
  else if a < 0x0C80000 then some (.pump ((a - 0x0C00000) / 0x4000), a % 0x4000)
  else if a < 0x0C84000 then some (.arb (64 + (a - 0x0C80000) / 0x1000), a % 0x1000)
  else if a < 0x1000000 then none
  else if a < 0x1200000 then some (.well ((a - 0x1000000) / 32), a % 32)
  else if a < 0x1201000 then some (.wellHdr, a % 0x1000)
  else if a < 0x1210000 then none
  else if a < 0x1230000 then some (.cring ((a - 0x1210000) / 32), a % 32)
  else if a < 0x1234000 then some (.sem ((a - 0x1230000) / 4), a % 4)
  else if a < 0x1400000 then none
  else if a < 0x1440000 then some (.link ((a - 0x1400000) / 0x1000), a % 0x1000)
  else if a < 0x14C0000 then some (.gw ((a - 0x1440000) / 0x20000), (a - 0x1440000) % 0x20000)
  else if a < 0x14C1000 then some (.routeHdr, a % 0x1000)
  else if a < 0x14C3000 then some (.route ((a - 0x14C1000) / 8), a % 8)
  else if a < 0x1500000 then none
  else if a < 0x1510000 then some (.cage ((a - 0x1500000) / 0x1000), a % 0x1000)
  else if a < 0x1511000 then some (.modPage, a % 0x1000)
  else none

/-- The key under which State.regs holds the field that starts at bit `lo` of the BAR0 word at `off`.
A 64-bit counter is one field of 64 bits at its low word; the field of its high word holds the value the
last read of the low word latched (R82). -/
abbrev fieldKey (off lo : Nat) : Nat := off * 32 + lo

/-! ### Shorthands for the tables -/

def fRw (n : String) (lo w : Nat) (rst : Nat := 0) : Field :=
  { name := n, lo := lo, width := w, acc := .rw, reset := rst }
def fRwOk (n : String) (lo w rst : Nat) (ok : Nat → Bool) : Field :=
  { name := n, lo := lo, width := w, acc := .rw, reset := rst, ok := ok }
def fRo (n : String) (lo w : Nat) (rst : Nat := 0) : Field :=
  { name := n, lo := lo, width := w, acc := .ro, reset := rst }
def fWo (n : String) (lo w : Nat) : Field := { name := n, lo := lo, width := w, acc := .wo }
def fWoOk (n : String) (lo w : Nat) (ok : Nat → Bool) : Field :=
  { name := n, lo := lo, width := w, acc := .wo, ok := ok }
def fW1c (n : String) (lo w : Nat) : Field := { name := n, lo := lo, width := w, acc := .w1c }
def fRc (n : String) (lo w : Nat) : Field := { name := n, lo := lo, width := w, acc := .rc }
def fClr (lo : Nat) : Field := { name := "cnt_clear", lo := lo, width := 1, acc := .wo, clr := true }
def reg1 (off : Nat) (fs : List Field) : RegRow := ⟨off, fs, 1, 4⟩
def regN (off count stride : Nat) (fs : List Field) : RegRow := ⟨off, fs, count, stride⟩
/-- A 64-bit counter (R82): the count, and at +4 the latched high word. -/
def cnt (n : String) (off : Nat) : List RegRow :=
  [reg1 off [fRo n 0 64], reg1 (off + 4) [fRo (n ++ " high-word latch") 0 32]]
/-- A list of consecutive 64-bit counters. -/
def cnts (off : Nat) : List String → List RegRow
  | [] => []
  | n :: ns => cnt n off ++ cnts (off + 8) ns

/-- Vertical position: the node row and column of vector engine e (R170). -/
def veCol (e : Nat) : Nat := 4 * (e / 4) + (if e % 4 < 2 then e % 4 else e % 4 - 2)
def veRow (e : Nat) : Nat := if e % 4 < 2 then 0 else 10
/-- Node identifier (R10). -/
def nodeId (c r : Nat) : Nat := c * 16 + r
/-- Column and row of a tile site (R11). -/
def siteCol (s : Nat) : Nat := s / 9
def siteRow (s : Nat) : Nat := s % 9 + 1

/-- BLK_ID type code and instance of a page (R437). -/
def Page.blkType : Page → Nat
  | .cc | .ident | .mbox _ | .part | .gen _ | .reel _ | .rep _ | .fw => 0x0001
  | .sluice => 0x0002
  | .entCell | .entPort _ => 0x0003
  | .hp _ => 0x0010
  | .router _ _ | .slot _ _ => 0x0020
  | .tile _ => 0x0030
  | .me _ => 0x0040
  | .ve _ => 0x0050
  | .vc _ => 0x0060
  | .arb _ => 0x0070
  | .pump _ => 0x0080
  | .well _ | .wellHdr | .cring _ | .sem _ => 0x0090
  | .link _ | .gw _ | .routeHdr | .route _ => 0x00A0
  | .cage _ | .modPage => 0x00B0
  | .clap => 0x00C0

def Page.blkInstance : Page → Nat
  | .cc => 0 | .ident => 1 | .mbox p => 2 + p | .part => 4
  | .gen p => 0x10 + p | .reel p => 0x20 + p | .rep p => 0x30 + p | .fw => 0x40
  | .sluice => 0 | .entCell => 0 | .entPort p => 1 + p | .hp p => p
  | .router c r | .slot c r => nodeId c r
  | .tile s => s | .me q => q | .ve e => e | .vc c => c | .arb i => i
  | .pump n => n | .well _ | .wellHdr | .cring _ | .sem _ => 0
  | .link i => i | .gw q => 64 + q | .routeHdr | .route _ => 68
  | .cage k => k | .modPage => 16 | .clap => 0

/-- BLK_CAPS.member: the block types a block list may name (R436, R437). -/
def Page.isMember : Page → Bool
  | .router _ _ | .slot _ _ | .tile _ | .me _ | .ve _ | .vc _ | .link _ | .gw _ | .clap => true
  | _ => false

/-- BLK_CAPS.epoch: the take members that belong to a partition. The clapper unit serves both partitions, so it
holds no partition's epoch: DEDUCED from R199 and R432 (log 16). -/
def Page.hasEpoch (pg : Page) : Bool := pg.isMember && pg != .clap

/-- BLK_CAPS.window_log2 (R432, R438). -/
def Page.windowLog2 : Page → Nat
  | .router _ _ | .slot _ _ => 13
  | .tile _ | .ve _ | .pump _ => 14
  | .me _ | .vc _ => 16
  | .gw _ => 17
  | _ => 12

/-- BLK_CAPS.inject: the blocks for which R352 names a check (R432, R435). -/
def Page.canInject : Page → Bool
  | .cc | .router _ _ | .slot _ _ | .tile _ | .ve _ | .vc _ | .pump _ | .link _ | .clap => true
  | .entCell => true
  | _ => false

/-- BLK_OWNER.part at reset: a per-port page names its port, a global page is device-wide, and every
unit is given to port A, the plan of a record that holds none (R328, R441). -/
def Page.ownerReset : Page → Nat
  | .mbox p | .entPort p | .gen p | .reel p | .rep p | .hp p => p
  | .cc | .ident | .part | .sluice | .entCell | .fw | .clap | .wellHdr | .routeHdr | .modPage => 2
  | .cage _ => 2
  | _ => 0

/-- Pages that carry the common header of R432. -/
def Page.hasHeader : Page → Bool
  | .well _ | .cring _ | .sem _ | .route _ => false
  | _ => true

/-- The common page header (R432). -/
def headerRows (pg : Page) : List RegRow :=
  [ reg1 0x000 [fRo "instance" 0 16 pg.blkInstance, fRo "type" 16 16 pg.blkType],
    reg1 0x004 [fRo "revision" 0 16 1, fRo "minor" 16 8 0, fRo "major" 24 8 4],
    reg1 0x008 [fRo "inject" 0 1 pg.canInject.toNat, fRo "member" 1 1 pg.isMember.toNat,
                fRo "epoch" 2 1 pg.hasEpoch.toNat, fRo "window_log2" 8 5 pg.windowLog2],
    reg1 0x00C [fRo "part" 0 2 pg.ownerReset],
    reg1 0x010 [fWo "err_clear" 0 1, fWo "retry_clear" 1 1],
    reg1 0x014 [fRo "present" 0 1 1, fRo "retired" 1 1, fRo "stale" 2 1, fRo "in_take" 3 1,
                fRo "err" 4 1],
    reg1 0x018 [fW1c "logged" 0 1, fW1c "schedule" 1 1, fW1c "model" 2 1, fW1c "lasting" 3 1,
                fW1c "more" 4 1],
    reg1 0x01C [fRw "mask" 0 32],
    reg1 0x020 [fRo "detail" 0 24, fRo "code" 24 8],
    reg1 0x024 [fRwOk "mode" 0 2 0 (fun v => v != 3), fRo "fired" 2 1],
    reg1 0x028 [fRo "transient" 0 32],
    reg1 0x02C [fRo "lasting_cnt" 0 32],
    reg1 0x030 [fRo "epoch_val" 0 32] ]

/-- Control complex page (chapter 21). -/
def ccRows : List RegRow :=
  cnts 0x040 ["CC_LOAD_CNT", "CC_REFUSE_CNT", "CC_CTRLNET_CNT", "CC_PAGE_BYTES"] ++
  [ reg1 0x100 [fClr 0],
    reg1 0x104 [fRo "alive" 0 4 0xF, fRo "activating" 4 1] ]

/-- Device identity page (R442). The values that come from the module record are written by power-up. -/
def identRows : List RegRow :=
  [ reg1 0x100 [fRo "ready" 0 1, fRo "stage" 1 4 3, fRo "field_lost" 5 1, fRo "service" 6 1,
                fRo "releasing" 7 1],
    reg1 0x104 [fRo "tiles" 0 8 128, fRo "part_tiles" 8 8 128, fRo "cols" 16 16 0xFFFF],
    reg1 0x108 [fRo "tiles_a" 0 8 128, fRo "tiles_b" 8 8 0],
    reg1 0x10C [fRw "id" 0 10, fRw "valid" 16 1],
    reg1 0x110 [fRo "serial_lo" 0 32], reg1 0x114 [fRo "serial_hi" 0 32],
    reg1 0x118 [fRo "ascii0" 0 32 0x34564B49], reg1 0x11C [fRo "ascii1" 0 32 0x3832312D],
    reg1 0x120 [fRo "ascii2" 0 32], reg1 0x124 [fRo "ascii3" 0 32],
    reg1 0x128 [fRo "me" 0 4, fRo "ve" 4 16, fRo "pumpc" 20 4, fRo "gw" 24 4],
    reg1 0x12C [fRo "engines" 0 32],
    reg1 0x130 [fRo "spares" 0 8 16, fRo "failed" 8 8] ]

/-- Mailbox page (chapter 21, R444 to R446). -/
def mboxRows : List RegRow :=
  cnts 0x040 ["MB_CMD_CNT", "MB_DONE_CNT", "MB_STOP_CNT", "MB_REFUSE_CNT"] ++
  [ regN 0x100 8 4 [fWo "word" 0 32],
    reg1 0x120 [fRo "depth" 0 3, fRo "held" 3 1, fRo "state" 4 3],
    reg1 0x124 [fClr 0],
    reg1 0x128 [fRo "take_id_lo" 0 32], reg1 0x12C [fRo "take_id_hi" 0 32],
    reg1 0x130 [fRo "step" 0 64], reg1 0x134 [fRo "step latch" 0 16],
    reg1 0x138 [fRo "beats" 0 64], reg1 0x13C [fRo "beats latch" 0 32],
    reg1 0x140 [fRo "refresh" 0 64], reg1 0x144 [fRo "refresh latch" 0 32],
    reg1 0x148 [fRo "retry" 0 64], reg1 0x14C [fRo "retry latch" 0 32],
    reg1 0x150 [fRo "epoch" 0 32 1],
    reg1 0x154 [fRw "low" 0 4 1, fRw "high" 4 4 1],
    reg1 0x158 [fRo "level" 0 4 1, fRo "none" 4 1, fRo "held" 5 1, fRo "fw_low" 8 4 1,
                fRo "fw_high" 12 4 3] ]

/-- One view of the partition control page at offset `o`, staged (RW) or in force (RO). -/
def partView (o : Nat) (a : Acc) : List RegRow :=
  let f (n : String) (lo w rst : Nat) (ok : Nat → Bool) : Field :=
    { name := n, lo := lo, width := w, acc := a, reset := rst, ok := ok }
  let any : Nat → Bool := fun _ => true
  [ reg1 o [f "cols_a" 0 16 0xFFFF any, f "cols_b" 16 16 0 any],
    reg1 (o + 0x04) [f "pumps_a" 0 32 0xFFFFFFFF any],
    reg1 (o + 0x08) [f "pumps_b" 0 32 0 any],
    reg1 (o + 0x0C) [f "links_a_lo" 0 32 0xFFFFFFFF any],
    reg1 (o + 0x10) [f "links_a_hi" 0 32 0xFFFFFFFF any],
    reg1 (o + 0x14) [f "links_b_lo" 0 32 0 any],
    reg1 (o + 0x18) [f "links_b_hi" 0 32 0 any],
    reg1 (o + 0x1C)
      [f "block0" 0 2 0 (· != 3), f "block1" 2 2 0 (· != 3), f "block2" 4 2 0 (· != 3),
       f "block3" 6 2 0 (· != 3), f "block4" 8 2 1 (· != 3), f "block5" 10 2 1 (· != 3),
       f "block6" 12 2 1 (· != 3), f "block7" 14 2 1 (· != 3)],
    reg1 (o + 0x20) [f "base_a" 0 6 0 any, f "count_a" 8 7 32 any, f "base_b" 16 6 32 any,
                     f "count_b" 24 7 32 any] ]

/-- Partition control page (R447, R448). -/
def partRows : List RegRow :=
  partView 0x100 .rw ++ partView 0x180 .ro ++
  [ reg1 0x1C0 [fWoOk "cmd" 0 2 (· != 3)],
    reg1 0x1C4 [fRo "busy" 0 1, fRo "result" 8 8, fRo "uncovered" 16 16] ]

/-- A budget request or cap: none, or 2,000 to 4,400 tokens (R370). -/
def budgetOk (v : Nat) : Bool := v == 0 || (2000 ≤ v && v ≤ 4400)
/-- A core supply setpoint (R366). -/
def vcoreOk (v : Nat) : Bool := 600 ≤ v && v ≤ 850 && v % 5 == 0

/-- Sluice page (chapter 17). -/
def sluiceRows : List RegRow :=
  cnts 0x040 ["SLU_THROTTLE_CNT", "SLU_DROOP_CNT", "SLU_UNHELD_CNT"] ++
  [ reg1 0x100 [fClr 0],
    reg1 0x104 [fRo "default" 0 1 1, fRo "thermal" 1 1, fRo "droop" 2 1, fRo "core_wide" 3 1,
                fRo "scaled_a" 4 1, fRo "scaled_b" 5 1],
    reg1 0x108 [fRwOk "req_a" 0 16 0 budgetOk],
    reg1 0x10C [fRwOk "req_b" 0 16 0 budgetOk],
    reg1 0x110 [fRwOk "cap" 0 16 0 budgetOk],
    reg1 0x114 [fRo "b" 0 16 2000, fRo "enforced" 16 16 1600],
    reg1 0x118 [fRwOk "a" 0 9 256 (· ≤ 256)],
    reg1 0x11C [fRo "grant_a" 0 16 1280, fRo "grant_b" 16 16 0],
    reg1 0x120 [fRo "tj" 0 8, fRo "column" 8 4, fRo "f" 16 9 256],
    reg1 0x124 [fRo "tokens" 0 16],
    reg1 0x128 [fRwOk "set_mv" 0 10 750 vcoreOk, fRo "meas_mv" 16 10],
    reg1 0x12C [fRw "type" 0 16, fRw "instance" 16 16],
    reg1 0x130 [fRo "tokens" 0 16, fRo "level" 16 5] ]

/-- Entropy cell page (R393). -/
def entCellRows : List RegRow :=
  cnts 0x040 ["TRNG_RAW_CNT", "TRNG_SEED_CNT", "TRNG_GEN_CNT"] ++
  [ reg1 0x100 [fClr 0, fWo "kat" 1 1],
    reg1 0x104 [fRo "pass" 0 8, fRo "releasing" 8 1, fRo "factory" 9 1, fRo "kat_busy" 10 1,
                fRo "drbg_error" 11 1],
    reg1 0x108 [fRw "cells" 0 8],
    reg1 0x10C [fRw "pattern" 0 32],
    reg1 0x110 [fRo "inst0" 0 2, fRo "inst1" 2 2, fRo "inst2" 4 2, fRo "inst3" 6 2, fRo "inst4" 8 2,
                fRo "inst5" 10 2, fRo "inst6" 12 2, fRo "inst7" 14 2],
    regN 0x180 8 4 [fRo "fails" 0 32] ]

/-- Entropy port page (R394). -/
def entPortRows : List RegRow :=
  cnts 0x040 ["ENT_REQ_CNT", "ENT_BYTES_CNT"] ++
  [ reg1 0x100 [fClr 0],
    reg1 0x104 [fRc "samples" 0 16, fRc "cell" 16 3, fRc "valid" 31 1],
    reg1 0x108 [fRwOk "cell" 0 4 8 (· ≤ 8)],
    regN 0x200 32 32 [fRw "base_lo" 6 26],
    regN 0x204 32 32 [fRw "base_hi" 0 32],
    regN 0x208 32 32
      [fRwOk "size_log2" 0 4 4 (fun v => 4 ≤ v && v ≤ 12), fRwOk "class" 4 2 0 (· ≤ 1), fRw "enable" 6 1,
       fRw "vector" 7 11, fRw "irq" 18 1, fRwOk "reseed_log2" 19 5 16 (· ≤ 24)],
    regN 0x20C 32 32 [fRo "head" 0 16, fRw "tail" 16 16],
    regN 0x210 32 32 [fRo "inst" 0 2, fRo "waiting" 2 1, fRo "reseed_ctr" 7 25] ]

/-- Generator probe page (R129). -/
def genRows : List RegRow :=
  [ reg1 0x100 [fRw "seed_lo" 0 32], reg1 0x104 [fRw "seed_hi" 0 32],
    reg1 0x108 [fRw "pos" 0 32],
    reg1 0x10C [fRw "stream" 0 16, fRw "data" 16 16],
    reg1 0x110 [fRw "step_lo" 0 32], reg1 0x114 [fRw "step_hi" 0 16],
    reg1 0x118 [fRw "arg" 0 32],
    reg1 0x11C [fWo "go" 0 1, fRwOk "fn" 1 3 0 (· ≤ 5), fRw "use_arg" 4 1, fRwOk "table" 5 3 0 (· ≤ 3)],
    reg1 0x120 [fRo "x_lo" 0 32], reg1 0x124 [fRo "x_hi" 0 32],
    reg1 0x128 [fRo "result" 0 32],
    reg1 0x12C [fRo "busy" 0 1, fW1c "bad" 1 1],
    reg1 0x130 [fRo "gen_version" 0 8 1, fRo "table_version" 8 8 1] ]

/-- Reel page (R351). -/
def reelRows : List RegRow :=
  cnts 0x040 ["REEL_CAPT_CNT", "REEL_REST_CNT", "REEL_REFUSE_CNT"] ++
  [ reg1 0x100 [fWoOk "cmd" 0 4 (· ≤ 5), fRw "seal" 4 1, fClr 5],
    reg1 0x104 [fRo "busy" 0 1, fRo "grade_diff" 1 1, fRo "key_valid" 2 1, fRo "key_gen" 3 1,
                fRo "result" 8 8, fRo "record" 16 16 0xFFFF],
    reg1 0x108 [fRw "addr_lo" 6 26], reg1 0x10C [fRw "addr_hi" 0 6],
    reg1 0x110 [fRw "id" 0 32],
    reg1 0x114 [fRo "count" 0 32],
    reg1 0x118 [fRo "step_lo" 0 32], reg1 0x11C [fRo "step_hi" 0 16],
    regN 0x120 8 4 [fWo "key" 0 32] ]

/-- The sites of a REP_SITE word m: sixteen 2-bit codes (R399, chapter 16). At reset, the record of an
IKV4-128 with row 9 of every column a spare (DESIGN CHOICE, log 12). -/
def siteCodeReset (s : Nat) : Nat := if s < 144 then (if s % 9 = 8 then 1 else 0) else 0

def repSiteRow (m : Nat) : RegRow :=
  reg1 (0x200 + 4 * m) ((List.range 16).map fun i => fRo "site" (2 * i) 2 (siteCodeReset (16 * m + i)))

/-- Repair page (chapter 16). -/
def repRows : List RegRow :=
  cnts 0x040 ["REP_SUBST_CNT", "REP_RETIRE_CNT", "REP_DEMOTE_CNT"] ++
  [ reg1 0x100 [fWoOk "cmd" 0 4 (· ≤ 2)],
    reg1 0x104 [fRo "busy" 0 1, fRo "service" 1 1, fRo "subst" 2 1, fRo "result" 8 8, fRo "log_head" 16 6],
    reg1 0x108 [fRw "type" 0 16, fRw "instance" 16 16],
    reg1 0x10C [fRw "vector" 0 11, fRw "enable" 16 1] ] ++
  (List.range 9).map repSiteRow ++
  [ regN 0x400 64 16 [fRo "seq" 0 32],
    regN 0x404 64 16 [fRo "type" 0 16, fRo "instance" 16 16],
    regN 0x408 64 16 [fRo "err_first" 0 32],
    regN 0x40C 64 16 [fRo "action" 0 8, fRo "site" 8 8 0xFF] ]

/-- Firmware page (R415). -/
def fwRows : List RegRow :=
  [ reg1 0x100 [fWoOk "cmd" 0 4 (· ≤ 4)],
    reg1 0x104 [fRo "busy" 0 1, fRo "pending" 1 1, fRo "running" 2 1, fRo "valid_a" 3 1 1,
                fRo "valid_b" 4 1, fRo "result" 8 8],
    reg1 0x108 [fRw "src_lo" 6 26], reg1 0x10C [fRw "src_hi" 0 6],
    reg1 0x110 [fRw "len" 0 25],
    reg1 0x114 [fRo "version_a" 0 32], reg1 0x118 [fRo "version_b" 0 32] ]

/-- Clapper-unit page (R217). -/
def clapRows : List RegRow :=
  cnts 0x040 ["CLAP_REL_CNT", "CLAP_STOP_CNT", "CLAP_WAIT_MAX"] ++
  [ reg1 0x100 [fClr 0],
    reg1 0x104 [fRo "base_a" 0 6 0, fRo "count_a" 8 7 32, fRo "base_b" 16 6 32, fRo "count_b" 24 7 32],
    reg1 0x108 [fRo "pend_lo" 0 32], reg1 0x10C [fRo "pend_hi" 0 32],
    reg1 0x110 [fRo "limit" 0 32] ]

/-- Host port page (chapter 14). -/
def hpRows : List RegRow :=
  cnts 0x040 ["HP_RX_BYTES", "HP_TX_BYTES", "HP_WIN_RD_CNT", "HP_WIN_WR_CNT", "HP_REFUSE_CNT",
    "HP_ECRC_ERR_CNT", "HP_RESET_CNT"] ++
  [ reg1 0x100 [fClr 0, fRw "evt_en" 1 3],
    reg1 0x104 [fRo "link_up" 0 1, fRo "rate" 1 3, fRo "width" 4 5, fRo "ecrc" 9 1, fRo "flit" 10 1,
                fRo "peer" 11 2 2, fRo "bar2_log2" 13 6 30],
    reg1 0x108 [fRw "base_lo" 30 2], reg1 0x10C [fRw "base_hi" 0 6],
    reg1 0x110 [fW1c "peer" 0 1, fW1c "part" 1 1, fW1c "refused" 2 1],
    reg1 0x114 [fRw "vector" 0 11],
    reg1 0x118 [fRo "addr_lo" 0 32],
    reg1 0x11C [fRo "addr_hi" 0 4, fRo "bar" 4 2, fRo "write" 6 1, fRc "valid" 31 1] ]

/-- ROUTER_PORTS.present: north, east, south, west, local (R244). -/
def portsPresent (c r : Nat) : Nat :=
  (if r = 0 then 0 else 1) + (if c = 15 then 0 else 2) + (if r = 10 then 0 else 4) +
  (if c = 0 then 0 else 8) + 16

/-- Router page (R264). -/
def routerRows (c r : Nat) : List RegRow :=
  cnts 0x040 ["SCHED_FLIT_CNT", "DELTA_FLIT_CNT", "RED_FLIT_CNT", "CLAP_FLIT_CNT", "SVC_FLIT_CNT",
    "CRC_RETRY_CNT", "RED_NODE_CNT", "SVC_HOLD_CNT"] ++
  [ reg1 0x100 [fClr 0],
    reg1 0x104 [fRo "in_take" 0 1, fRo "port_down" 1 5, fRo "stale" 6 1],
    reg1 0x108 [fRo "node" 0 8 (nodeId c r), fRo "quadrant" 8 2 (c / 4),
                fRo "east" 10 1 (if 8 ≤ c then 1 else 0)],
    reg1 0x10C [fRwOk "period" 0 10 0 (· ≤ 960)],
    reg1 0x110 [fRo "present" 0 5 (portsPresent c r)] ]

/-- A slot entry's 3-bit codes (R250): 7 is reserved, and 6 is an output code only. -/
def outCodeOk (v : Nat) : Bool := v != 7
def inCodeOk (v : Nat) : Bool := v ≤ 5

/-- Router slot page: 960 slot entries (R250). -/
def slotRows : List RegRow :=
  [ regN 0x100 960 4
      [fRwOk "out_n" 0 3 0 outCodeOk, fRwOk "out_e" 3 3 0 outCodeOk, fRwOk "out_s" 6 3 0 outCodeOk,
       fRwOk "out_w" 9 3 0 outCodeOk, fRwOk "out_l" 12 3 0 outCodeOk, fRwOk "red_a" 15 3 0 inCodeOk,
       fRwOk "red_b" 18 3 0 inCodeOk, fRw "red_fp" 21 1] ]

/-- Tile page (R82). -/
def tileRows (s : Nat) : List RegRow :=
  cnts 0x040 ["UPD_CNT", "FLIP_CNT", "COLD_SKIP_CNT", "COUPLED_FLIP_CNT", "DELTA_LOCAL_CNT",
    "DELTA_OUT_CNT", "DELTA_IN_CNT", "WALK_GROUP_CNT", "TAP_CNT", "FIELD_MISMATCH_CNT"] ++
  [ reg1 0x100 [fClr 0, fRw "deep" 1 1, fRw "verify_init" 2 1],
    reg1 0x104 [fRo "in_take" 0 1, fRo "init_done" 1 1, fW1c "field_wrap" 2 1, fW1c "gauss_sat" 3 1,
                fRo "stale" 4 1, fRo "spare" 5 1, fRo "done" 6 1],
    reg1 0x108 [fRo "logical" 0 8 0xFF, fRo "site" 8 8 s],
    reg1 0x10C [fRwOk "replicas" 0 10 1 (fun v => 1 ≤ v && v ≤ 512), fRw "colours_m1" 10 6,
                fRw "interleave" 16 1],
    regN 0x110 7 4 [fRw "base" 6 16],
    reg1 0x12C [fRwOk "state_fmt" 0 2 0 (· != 3), fRwOk "group_count" 3 13 0 (· ≤ 4096),
                fRwOk "var_count" 16 16 0 (· ≤ 32768)],
    reg1 0x130 [fRw "offset" 0 16],
    reg1 0x134 [fRw "base_lo" 6 26], reg1 0x138 [fRw "base_hi" 0 6],
    reg1 0x140 [fRo "step_lo" 0 32], reg1 0x144 [fRo "step_hi" 0 16],
    regN 0x150 4 4 [fRw "mask" 0 32],
    regN 0x400 128 8 [fRw "first" 0 32],
    regN 0x404 128 8 [fRwOk "count" 0 16 0 (· ≤ 32768)] ]

/-- Matrix-engine page (R152). -/
def meRows (q : Nat) : List RegRow :=
  cnts 0x040 ["MAC_CNT", "ARRAY_BEAT_CNT", "BRICK_SKIP_CNT", "GATE_SKIP_CNT", "FLIP_COL_CNT",
    "STRIP_IN_CNT", "STRIP_OUT_CNT", "CONV_SAT_CNT"] ++
  [ reg1 0x100 [fClr 0, fRw "half" 1 1, fRw "debug" 2 1],
    reg1 0x104 [fRo "in_take" 0 1, fW1c "conv_sat" 1 1, fRo "stale" 2 1, fRo "busy0" 3 1, fRo "busy1" 4 1],
    reg1 0x108 [fW1c "tile_sat" 0 4],
    reg1 0x10C [fRo "src_id" 0 8 (0xF0 + q)],
    reg1 0x110 [fRo "tokens" 0 16],
    reg1 0x114 [fRo "union0" 0 16, fRo "union1" 16 16],
    reg1 0x120 [fRw "reg" 0 1],
    reg1 0x124 [fRw "row" 0 9, fRw "col" 16 9],
    reg1 0x128 [fRo "data_lo" 0 32], reg1 0x12C [fRo "data_hi" 0 32] ]

/-- Vector-engine page (R185). -/
def veRows (e : Nat) : List RegRow :=
  cnts 0x040 ["INSTR_CNT", "ELEM_CNT", "VE_SAT_CNT", "DRAW_CNT", "CHECK_CNT", "CHECK_MISMATCH_CNT"] ++
  [ reg1 0x100 [fClr 0],
    reg1 0x104 [fRo "in_take" 0 1, fW1c "sat" 1 1, fRo "stale" 2 1, fRo "ladder" 3 1, fRo "inserting" 4 1],
    reg1 0x108 [fRo "node" 0 8 (nodeId (veCol e) (veRow e))],
    reg1 0x10C [fRo "tokens" 0 16],
    reg1 0x110 [fRo "mismatches" 0 16, fRo "first_col" 16 16 0xFFFF] ]

/-- Banks in column c (R218). -/
def banksOf (c : Nat) : Nat := if c % 4 = 2 then 224 else if c % 4 = 3 then 144 else 160

/-- Vault controller page (R242). -/
def vcRows (c : Nat) : List RegRow :=
  cnts 0x040 ["VC_CORR_CNT", "VC_UNCORR_CNT", "VC_REFRESH_CNT", "VC_REFRESH_STALL", "VC_SCRUB_CNT",
    "VC_NOT_OWNER_CNT", "VC_SRAM_CORR_CNT", "VC_TEST_CNT"] ++
  [ reg1 0x100 [fClr 0, fRw "scrub_en" 1 1 1, fRw "test_en" 2 1 1],
    reg1 0x104 [fRo "in_take" 0 1, fRo "hot" 1 1, fRo "temp" 2 8, fRo "test_bank" 10 8],
    reg1 0x108 [fRw "period" 0 16 40],
    reg1 0x10C [fRw "gap" 0 20 3294],
    regN 0x200 32 16 [fRo "guard" 0 1, fWo "clear" 1 1],
    regN 0x204 32 16 [fRo "state" 0 2 1, fRo "hot" 2 1, fRo "lock" 3 3, fRo "spares_used" 8 12],
    regN 0x208 32 16 [fRo "line" 0 30, fRo "uncorr" 30 1, fRc "valid" 31 1],
    regN 0x20C 32 16 [fRo "part" 0 2 3],
    regN 0x1000 (banksOf c) 16 [fRwOk "owner" 0 3 0 (· ≤ 5), fRw "pump" 8 5],
    regN 0x1004 (banksOf c) 16 [fRo "owner" 0 3, fRo "pump" 8 5, fRo "pending" 16 1],
    regN 0x1008 (banksOf c) 16 [fRwOk "req" 0 2 0 (· != 3), fRo "state" 4 2, fRo "clearing" 8 1,
                                fRo "waking" 9 1],
    regN 0x100C (banksOf c) 16 [fRc "corr" 0 16, fRo "bad" 16 1, fRo "testing" 17 1, fRo "lock" 18 3] ]

/-- ARB_PRIO reset of requester k (R255): a vault-port arbiter, or the injection point of complex q. -/
def arbPrioReset (i k : Nat) : Nat :=
  if i < 64 then
    match k with
    | 2 => 15 | 3 => 1 | 4 => 4 | 5 => 14 | _ => 8
  else if k = 9 then 14 else 8

/-- Service arbiter page (R266): 8 ports on a vault page, port 0 only on an injection page. -/
def arbRows (i : Nat) : List RegRow :=
  let ports := if i < 64 then 8 else 1
  cnts 0x040 ["ARB_GRANT_CNT", "ARB_PREEMPT_CNT", "ARB_WITHDRAW_CNT", "ARB_EXPIRE_CNT"] ++
  [ reg1 0x100 [fClr 0],
    reg1 0x104 [fRo "history" 0 1, fRo "busy" 8 8],
    reg1 0x108 [fRw "revocable" 0 5] ] ++
  (List.range 16).map (fun k => reg1 (0x200 + 4 * k) [fRw "prio" 0 4 (arbPrioReset i k)]) ++
  [ regN 0x240 16 4 [fRw "beats" 0 16 64],
    regN 0x300 ports 4 [fRo "req" 0 4, fRo "valid" 4 1, fRo "beats" 16 16],
    regN 0x400 (16 * ports) 4 [fRc "wait" 0 32],
    regN 0x600 (16 * ports) 4 [fRo "hint" 0 4 15, fRo "waiting" 4 1] ]

/-- Pump engine page (chapter 12). -/
def pumpRows : List RegRow :=
  cnts 0x040 ["PUMP_PROG_CNT", "PUMP_RD_BYTES", "PUMP_WR_BYTES", "PUMP_HALT_CNT", "PUMP_WAIT_BEATS"] ++
  [ reg1 0x100 [fClr 0, fRw "sleep_hint" 4 4],
    reg1 0x104 [fRo "busy" 0 1, fRo "asleep" 1 1, fRo "waiting" 2 1, fRo "channel" 4 11],
    reg1 0x108 [fRw "channel" 0 11],
    reg1 0x10C [fRo "valid" 0 1, fRo "dir" 1 1, fRo "space" 2 2, fRo "cause" 8 8, fRo "word" 16 16],
    reg1 0x110 [fRo "addr_lo" 0 32], reg1 0x114 [fRo "addr_hi" 0 32],
    regN 0x200 64 4 [fRo "halted" 0 32] ]

/-- z of a well or a completion ring (R268, R279). -/
def ringLogOk (v : Nat) : Bool := 4 ≤ v && v ≤ 16

/-- Well entry (chapter 12). -/
def wellRows : List RegRow :=
  [ reg1 0x00 [fRw "base_lo" 6 26], reg1 0x04 [fRw "base_hi" 0 32],
    reg1 0x08 [fRwOk "size_log2" 0 5 4 ringLogOk, fRw "prio" 8 4 8, fRw "cring" 12 11, fRw "enable" 23 1,
               fRw "irq_count" 24 8],
    reg1 0x0C [fRo "head" 0 16, fRo "tail" 16 16],
    reg1 0x10 [fRo "state" 0 3, fRo "hint" 4 4 15, fRo "port" 8 1],
    reg1 0x14 [fWo "stop" 0 1, fWo "resume" 1 1, fWo "skip" 2 1],
    reg1 0x18 [fRc "wait" 0 32] ]

/-- Completion ring descriptor (chapter 12). -/
def cringRows : List RegRow :=
  [ reg1 0x00 [fRw "base_lo" 6 26], reg1 0x04 [fRw "base_hi" 0 32],
    reg1 0x08 [fRwOk "size_log2" 0 5 4 ringLogOk, fRw "enable" 8 1],
    reg1 0x0C [fRo "tail" 0 16, fRw "head" 16 16],
    reg1 0x10 [fRo "full" 0 1, fRo "phase" 1 1 1] ]

def semRows : List RegRow := [reg1 0 [fRw "value" 0 32]]

/-- Well table header page (chapter 12). -/
def wellHdrRows : List RegRow :=
  cnts 0x040 ["WT_DOORBELL_CNT", "WT_POST_CNT", "WT_FULL_CNT"] ++ [reg1 0x100 [fClr 0]]

/-- Link page (R315, R316). -/
def linkRows : List RegRow :=
  cnts 0x040 ["LK_TX_FLIT_CNT", "LK_RX_FLIT_CNT", "LK_FEC_CORR_CNT", "LK_FEC_UNCORR_CNT",
    "LK_CRC_ERR_CNT", "LK_REPLAY_CNT", "LK_CLAP_CNT", "LK_RECOVER_CNT"] ++
  [ reg1 0x100 [fClr 0, fRw "enable" 1 1 1, fRwOk "max_gen" 2 2 3 (· != 0)],
    reg1 0x104 [fRo "state" 0 3, fRo "gen" 3 2, fRo "lane0" 5 1, fRo "lane1" 6 1, fRo "in_take" 7 1,
                fRo "recal" 8 1, fRo "stale" 9 1],
    reg1 0x108 [fRo "dev" 0 10, fRo "link" 10 6, fRo "max_gen" 16 2, fRo "family" 18 2, fRo "valid" 20 1],
    reg1 0x10C [fRwOk "period" 0 10 0 (· ≤ 512)],
    reg1 0x110 [fRo "next_seq" 0 8, fRo "ack_seq" 8 8, fRo "unacked" 16 6],
    reg1 0x200 [fWo "retrain" 0 1, fWo "recal" 1 1, fWo "drain" 2 1, fWo "undrain" 3 1],
    regN 0x800 512 4 [fRwOk "tx_vc" 0 2 0 (· != 3), fRw "tx_flow" 2 12, fRwOk "rx_vc" 14 2 0 (· != 3),
                      fRw "rx_flow" 16 12] ]

/-- A node identifier whose row exists (R10). -/
def rowOk (v : Nat) : Bool := v % 16 ≤ 10

/-- Gateway page (chapter 13, R317). -/
def gwRows : List RegRow :=
  cnts 0x040 ["GW_DELIVER_CNT", "GW_TRANSIT_CNT", "GW_FORK_CNT", "GW_SVC_REFUSE_CNT"] ++
  [ reg1 0x100 [fClr 0],
    reg1 0x104 [fRo "in_take" 0 1, fRo "stale" 1 1, fRo "recovering" 2 1],
    reg1 0x108 [fRwOk "beats" 0 24 100000 (· != 0)],
    regN 0x400 128 8 [fRw "first" 0 32],
    regN 0x404 128 8 [fRwOk "count" 0 16 0 (· ≤ 32768)],
    regN 0x800 64 16 [fRw "first" 0 32],
    regN 0x804 64 16 [fRw "count" 0 32],
    regN 0x808 64 16 [fRw "device" 0 10, fRw "flow" 16 12],
    regN 0x2000 480 4 [fRw "flow" 0 12, fRw "valid" 15 1, fRw "flow'" 16 12, fRw "valid'" 31 1],
    regN 0x10000 4096 16 [fRw "type" 0 2, fRw "deliver" 2 1, fRwOk "node" 8 8 0 rowOk],
    regN 0x10008 4096 16 [fRw "base" 0 32],
    regN 0x1000C 4096 16 [fRw "lines" 0 32] ]

/-- Route table entry (R318). -/
def routeRows : List RegRow :=
  [ reg1 0x0 [fRw "route0" 0 24, fRw "len0_m1" 24 2, fRw "valid0" 26 1],
    reg1 0x4 [fRw "route1" 0 24, fRw "len1_m1" 24 2, fRw "valid1" 26 1] ]

/-- Cage page (R430). -/
def cageRows : List RegRow :=
  cnts 0x040 ["CAGE_TOUCH_CNT", "CAGE_PRESS_CNT", "CAGE_INSERT_CNT"] ++
  [ reg1 0x100 [fClr 0, fWo "drain" 1 1, fRw "touch_en" 2 1 1, fRw "button_en" 3 1 1],
    reg1 0x104 [fRo "state" 0 3, fRo "present" 3 1, fRo "held" 4 1, fRo "powered" 5 1],
    reg1 0x108 [fRw "auto" 0 1],
    reg1 0x10C [fRo "power" 0 8, fRo "ident" 8 8] ]

/-- Module page (chapter 20). -/
def modRows : List RegRow :=
  [ reg1 0x100 [fRw "locate" 0 1],
    reg1 0x104 [fRo "mv" 0 16, fRo "ma" 16 16],
    reg1 0x108 [fRo "inlet" 0 8, fRo "outlet" 8 8],
    reg1 0x10C [fRo "p_c" 0 16],
    reg1 0x110 [fRw "vector" 0 11, fRw "enable" 16 1],
    reg1 0x114 [fRw "vector" 0 11, fRw "enable" 16 1] ]

/-- The registers of a page beside its header. -/
def bodyRows : Page → List RegRow
  | .cc => ccRows | .ident => identRows | .mbox _ => mboxRows | .part => partRows
  | .sluice => sluiceRows | .entCell => entCellRows | .entPort _ => entPortRows | .gen _ => genRows
  | .reel _ => reelRows | .rep _ => repRows | .fw => fwRows | .clap => clapRows | .hp _ => hpRows
  | .router c r => routerRows c r | .slot _ _ => slotRows | .tile s => tileRows s | .me q => meRows q
  | .ve e => veRows e | .vc c => vcRows c | .arb i => arbRows i | .pump _ => pumpRows
  | .well _ => wellRows | .wellHdr => wellHdrRows | .cring _ => cringRows | .sem _ => semRows
  | .link _ => linkRows | .gw _ => gwRows | .routeHdr => [] | .route _ => routeRows
  | .cage _ => cageRows | .modPage => modRows

/-- Every register of a page. -/
def pageRows (pg : Page) : List RegRow :=
  (if pg.hasHeader then headerRows pg else []) ++ bodyRows pg

/-- Does page offset `o` name a register of the row? -/
def RegRow.covers (r : RegRow) (o : Nat) : Bool :=
  r.off ≤ o && o < r.off + r.count * r.stride && (o - r.off) % r.stride == 0

/-- The fields of the 32-bit word at a page offset; none when the offset is reserved (R438, R439). -/
def fieldsAt (pg : Page) (o : Nat) : List Field :=
  match (pageRows pg).find? (fun r => r.covers o) with
  | some r => r.fields
  | none => []

/-- Reset value of a field by its key; 0 where no field lies (R13, R14). -/
def resetVal (key : Nat) : Nat :=
  match pageOf (key / 32) with
  | none => 0
  | some (pg, o) =>
    match (fieldsAt pg o).find? (fun f => f.lo == key % 32) with
    | some f => f.reset
    | none => 0

end Sys2Proof.Machine
end

