-- ==== Sys2Proof/Machine/Sparse.lean ====
section
/-!
DEFINITION. Sparse stores in one canonical form: keys strictly rising, and no entry equal to what an unlisted
key reads as. `Mem` is the device's memory, `Regs` its registers; both carry their canonical form with them.
-/

namespace Sys2Proof.Machine

variable {α : Type}

/-- Keys strictly rising, the first at least `b`. -/
def rising : Nat → List (Nat × α) → Bool
  | _, [] => true
  | b, (k, _) :: t => decide (b ≤ k) && rising (k + 1) t

/-- Put `v` at key `k` of a rising list. -/
def putKey (k : Nat) (v : α) : List (Nat × α) → List (Nat × α)
  | [] => [(k, v)]
  | (k', v') :: t =>
    if k < k' then (k, v) :: (k', v') :: t
    else if k = k' then (k, v) :: t
    else (k', v') :: putKey k v t

/-- Drop key `k` from a rising list. -/
def dropKey (k : Nat) : List (Nat × α) → List (Nat × α)
  | [] => []
  | (k', v') :: t => if k = k' then t else if k < k' then (k', v') :: t else (k', v') :: dropKey k t

/-- The value at key `k`, if listed. -/
def findKey (k : Nat) : List (Nat × α) → Option α
  | [] => none
  | (k', v') :: t => if k = k' then some v' else if k < k' then none else findKey k t

theorem rising_mono {b c : Nat} {l : List (Nat × α)} (h : rising c l = true) (hb : b ≤ c) :
    rising b l = true := by
  cases l with
  | nil => rfl
  | cons p t => simp only [rising, Bool.and_eq_true, decide_eq_true_eq] at h ⊢; exact ⟨by omega, h.2⟩

theorem rising_putKey {b k : Nat} {v : α} {l : List (Nat × α)} (h : rising b l = true) (hb : b ≤ k) :
    rising b (putKey k v l) = true := by
  induction l generalizing b with
  | nil => simp [putKey, rising, hb]
  | cons p t ih =>
    obtain ⟨k', v'⟩ := p
    simp only [rising, Bool.and_eq_true, decide_eq_true_eq] at h
    simp only [putKey]
    split
    · simp only [rising, Bool.and_eq_true, decide_eq_true_eq]; exact ⟨hb, by omega, h.2⟩
    · split
      · simp only [rising, Bool.and_eq_true, decide_eq_true_eq]; subst k; exact ⟨h.1, h.2⟩
      · simp only [rising, Bool.and_eq_true, decide_eq_true_eq]; exact ⟨h.1, ih h.2 (by omega)⟩

theorem rising_dropKey {b k : Nat} {l : List (Nat × α)} (h : rising b l = true) :
    rising b (dropKey k l) = true := by
  induction l generalizing b with
  | nil => rfl
  | cons p t ih =>
    obtain ⟨k', v'⟩ := p
    have h' := h
    simp only [rising, Bool.and_eq_true, decide_eq_true_eq] at h
    simp only [dropKey]
    split
    · exact rising_mono h.2 (by omega)
    · split
      · exact h'
      · simp only [rising, Bool.and_eq_true, decide_eq_true_eq]; exact ⟨h.1, ih h.2⟩

theorem all_putKey {k : Nat} {v : α} {l : List (Nat × α)} {q : Nat × α → Bool}
    (h : l.all q = true) (hq : q (k, v) = true) : (putKey k v l).all q = true := by
  induction l with
  | nil => simp [putKey, hq]
  | cons p t ih =>
    obtain ⟨k', v'⟩ := p
    simp only [List.all_cons, Bool.and_eq_true] at h
    simp only [putKey]
    split
    · simp [List.all_cons, h, hq]
    · split
      · simp [List.all_cons, h, hq]
      · simp [List.all_cons, h, ih]

theorem all_dropKey {k : Nat} {l : List (Nat × α)} {q : Nat × α → Bool}
    (h : l.all q = true) : (dropKey k l).all q = true := by
  induction l with
  | nil => rfl
  | cons p t ih =>
    obtain ⟨k', v'⟩ := p
    simp only [List.all_cons, Bool.and_eq_true] at h
    simp only [dropKey]
    split
    · exact h.2
    · split
      · simp [List.all_cons, h]
      · simp [List.all_cons, h, ih]

/-! ### Memory -/

/-- The local address space has 38 bits (R240). -/
abbrev localSpace : Nat := 2 ^ 38

/-- A listed byte is not zero, which is what an unlisted byte reads as (R225, R238), and lies in the local
space. -/
def cellOk (c : Host.Cell) : Bool := c.2 != 0 && decide (c.1 < localSpace)

/-- The canonical form of memory. -/
def memWf (l : List Host.Cell) : Bool := rising 0 l && l.all cellOk

/-- Memory of the local address map (R240): DRAM and the SRAM of every block. -/
structure Mem where
  cells : List Host.Cell
  wf : memWf cells = true
  deriving DecidableEq, Repr

def Mem.empty : Mem := ⟨[], rfl⟩

/-- The byte at an address; an unlisted byte reads as zero. -/
def Mem.get (m : Mem) (a : Nat) : Byte := (findKey a m.cells).getD 0

theorem memWf_put {m : Mem} {a : Nat} {b : Byte} (hb : cellOk (a, b) = true) :
    memWf (putKey a b m.cells) = true := by
  have h := m.wf
  simp only [memWf, Bool.and_eq_true] at h ⊢
  exact ⟨rising_putKey h.1 (Nat.zero_le _), all_putKey h.2 hb⟩

theorem memWf_drop {m : Mem} {a : Nat} : memWf (dropKey a m.cells) = true := by
  have h := m.wf
  simp only [memWf, Bool.and_eq_true] at h ⊢
  exact ⟨rising_dropKey h.1, all_dropKey h.2⟩

/-- Write one byte; beyond the local space nothing is written. -/
def Mem.set (m : Mem) (a : Nat) (b : Byte) : Mem :=
  if h : cellOk (a, b) = true then ⟨putKey a b m.cells, memWf_put h⟩
  else if a < localSpace then ⟨dropKey a m.cells, memWf_drop⟩
  else m

theorem memWf_filter {m : Mem} {p : Nat → Bool} :
    memWf (m.cells.filter (fun c => p c.1)) = true := by
  have h := m.wf
  simp only [memWf, Bool.and_eq_true] at h ⊢
  refine ⟨?_, ?_⟩
  · have h1 := h.1
    clear h
    generalize m.cells = l at h1
    generalize 0 = b at h1
    induction l generalizing b with
    | nil => rfl
    | cons c t ih =>
      simp only [rising, Bool.and_eq_true, decide_eq_true_eq] at h1
      simp only [List.filter_cons]
      split
      · simp only [rising, Bool.and_eq_true, decide_eq_true_eq]; exact ⟨h1.1, ih _ h1.2⟩
      · exact rising_mono (ih _ h1.2) (by omega)
  · simp only [List.all_eq_true, List.mem_filter] at h ⊢
    exact fun c hc => h.2 c hc.1

/-- Zero in every byte from `a` to `a + n - 1`. -/
def Mem.clear (m : Mem) (a n : Nat) : Mem :=
  ⟨m.cells.filter (fun c => c.1 < a || a + n ≤ c.1), memWf_filter (p := fun k => k < a || a + n ≤ k)⟩

/-! ### Registers -/

/-- May field `key` hold value `v`? Within the field's width and no reserved code (R13). -/
def regLegal (key v : Nat) : Bool :=
  match pageOf (key / 32) with
  | none => false
  | some (pg, o) =>
    match (fieldsAt pg o).find? (fun f => f.lo == key % 32) with
    | some f => decide (v < 2 ^ f.width) && f.ok v
    | none => false

/-- A listed field holds a legal value other than its reset value. -/
def regOk (c : Nat × Nat) : Bool := regLegal c.1 c.2 && c.2 != resetVal c.1

def regsWf (l : List (Nat × Nat)) : Bool := rising 0 l && l.all regOk

/-- Every register field of BAR0, by `fieldKey`. -/
structure Regs where
  cells : List (Nat × Nat)
  wf : regsWf cells = true
  deriving DecidableEq, Repr

def Regs.empty : Regs := ⟨[], rfl⟩

/-- The value a field holds. -/
def Regs.get (r : Regs) (key : Nat) : Nat := (findKey key r.cells).getD (resetVal key)

theorem regsWf_put {r : Regs} {k v : Nat} (hv : regOk (k, v) = true) :
    regsWf (putKey k v r.cells) = true := by
  have h := r.wf
  simp only [regsWf, Bool.and_eq_true] at h ⊢
  exact ⟨rising_putKey h.1 (Nat.zero_le _), all_putKey h.2 hv⟩

theorem regsWf_drop {r : Regs} {k : Nat} : regsWf (dropKey k r.cells) = true := by
  have h := r.wf
  simp only [regsWf, Bool.and_eq_true] at h ⊢
  exact ⟨rising_dropKey h.1, all_dropKey h.2⟩

/-- Give a field a value; a value the field cannot hold changes nothing (R13). -/
def Regs.set (r : Regs) (k v : Nat) : Regs :=
  if h : regOk (k, v) = true then ⟨putKey k v r.cells, regsWf_put h⟩
  else if regLegal k v then ⟨dropKey k r.cells, regsWf_drop⟩
  else r

theorem regsWf_filter {r : Regs} {p : Nat → Bool} :
    regsWf (r.cells.filter (fun c => p c.1)) = true := by
  have h := r.wf
  simp only [regsWf, Bool.and_eq_true] at h ⊢
  refine ⟨?_, ?_⟩
  · have h1 := h.1
    clear h
    generalize r.cells = l at h1
    generalize 0 = b at h1
    induction l generalizing b with
    | nil => rfl
    | cons c t ih =>
      simp only [rising, Bool.and_eq_true, decide_eq_true_eq] at h1
      simp only [List.filter_cons]
      split
      · simp only [rising, Bool.and_eq_true, decide_eq_true_eq]; exact ⟨h1.1, ih _ h1.2⟩
      · exact rising_mono (ih _ h1.2) (by omega)
  · simp only [List.all_eq_true, List.mem_filter] at h ⊢
    exact fun c hc => h.2 c hc.1

/-- Return every field whose key `p` selects to its reset value. -/
def Regs.resetWhere (r : Regs) (p : Nat → Bool) : Regs :=
  ⟨r.cells.filter (fun c => !p c.1), regsWf_filter (p := fun k => !p k)⟩

/-! ### Tables of the model's internal records, by unit number -/

abbrev Tbl (α : Type) := List (Nat × α)

def Tbl.get (d : α) (t : Tbl α) (k : Nat) : α := (findKey k t).getD d
def Tbl.put (t : Tbl α) (k : Nat) (v : α) : Tbl α := putKey k v t
def Tbl.erase (t : Tbl α) (k : Nat) : Tbl α := dropKey k t

end Sys2Proof.Machine
end

