-- ==== Sys2Proof/Machine/State.lean ====
section
/-!
DEFINITION. The state of the device: registers, memories, takes, engines and their work in progress, and the
queue of waiting commands; the state after reset; the reasons a step can stop.
-/

namespace Sys2Proof.Machine

/-! ### Call sheets -/

/-- A record of section 0x02 or 0x07 (R207). -/
structure PageRec where
  blk : Nat
  off : Nat
  words : List Nat
  deriving DecidableEq, Repr

/-- An entry of the script table. -/
structure ScriptEnt where
  blk : Nat
  half : Nat
  addr : Nat
  len : Nat
  deriving DecidableEq, Repr

/-- An entry of the clapper table. -/
structure ClapEnt where
  used : Bool
  cut : Bool
  early : Bool
  xdev : Bool
  set : Nat
  beats : Nat
  deriving DecidableEq, Repr

/-- A route set of section 0x07. -/
structure RouteSet where
  num : Nat
  planDelta : Int
  trigger : Nat
  recs : List PageRec
  deriving DecidableEq, Repr

/-- A call sheet as the firmware holds it once validated (R205 to R207). -/
structure CallSheet where
  lattice : Bool := false
  multi : Bool := false
  major : Nat := 4
  slate : List Byte := []
  takeId : Nat := 0
  seed : Nat := 0
  stepOrigin : Nat := 0
  tiles : Nat := 0
  gradeTiles : Nat := 0
  epoch : Nat := 0
  blocks : List (Nat × Nat) := []
  writes : List PageRec := []
  scripts : List ScriptEnt := []
  colours : Nat := 1
  interleave : Bool := false
  counts : List (List Nat) := []
  claps : List ClapEnt := []
  sets : List Nat := []
  routes : List RouteSet := []
  phases : Nat := 1
  ceilings : List (List Nat) := []
  reels : List (Nat × Nat) := []
  devices : List Nat := []
  cls : Nat := 0
  purposes : Nat := 0
  planned : Nat := 0
  clapScript : List Nat := []
  deriving DecidableEq, Repr

/-! ### Takes -/

/-- An open LOOP of a script: first word of its body, its length, passes still to run. -/
structure LoopRec where
  start : Nat
  len : Nat
  left : Nat
  deriving DecidableEq, Repr

/-- A changed variable-replica of the current step: local index, replica, state before and after. -/
structure Flip where
  v : Nat
  r : Nat
  old : Nat
  new : Nat
  deriving DecidableEq, Repr

/-- A tile instruction in progress: FIELD_INIT (0x40), SWEEP (0x41), SWEEP_SYNC (0x42), SAMPLE_TRUE (0x46). -/
structure Sweep where
  op : Nat
  left : Nat
  early : Bool
  spinRule : Bool
  pottsRule : Bool
  frame : Nat
  half : Nat
  flips : List Flip
  seen : List Nat := []
  betas : List Nat := []                 -- lattice: β of each replica, read at the step's start (R56)
  deriving DecidableEq, Repr

/-- A script in execution. -/
structure Member where
  blk : Nat
  page : Page
  half : Nat
  base : Nat
  len : Nat
  pc : Nat
  loops : List LoopRec
  arrived : Option Nat
  ended : Bool
  step : Nat
  marking : Bool
  beats : Nat
  refresh : Nat
  retry : Nat
  sweep : Option Sweep
  waiting : Bool
  hold : Tbl Nat := []                   -- matrix engine: beat to which a spill holds each register (R157)
  deriving DecidableEq, Repr

/-- A 16-byte item travelling between tiles: source and destination logical tile, the flit (R72, R94), and whether
FIELD_INIT sent it: its step field, 0xFFFF, is also that of a step. -/
structure Travel where
  src : Nat
  dst : Nat
  flit : Nat
  init : Bool
  deriving DecidableEq, Repr

/-- A strip travelling between a tile and a matrix engine (R140, R142): kind 0 state strip, 1 field strip. -/
structure Strip where
  kind : Nat
  src : Nat
  dst : Nat
  slot : Nat
  data : List Nat
  deriving DecidableEq, Repr

/-- A mailbox command after its `cmd` byte (R210). -/
structure LoadCmd where
  hold : Bool := false
  vector : Nat := 0
  csAddr : Nat := 0
  resultAddr : Nat := 0
  takeId : Nat := 0
  deriving DecidableEq, Repr

/-- The stop causes of a take, in the order of R215. -/
structure Stops where
  schedule : Bool := false
  model : Bool := false
  lost : Bool := false
  clap : Bool := false
  timeout : Bool := false
  route : Bool := false
  abort : Bool := false
  deriving DecidableEq, Repr

/-- A contribution to an in-network reduction (R165, R166): the slot, the tile's k-th send to it, the tile,
its words. -/
structure RedPart where
  slot : Nat
  seq : Nat
  tile : Nat
  words : List Nat
  deriving DecidableEq, Repr

/-- A cistern candidate (R105): replica slot, pool slot, energy, rung before the round's swaps, step. -/
structure Cand where
  slot : Nat
  pool : Nat
  energy : Int
  rung : Nat
  step : Nat
  deriving DecidableEq, Repr

/-- The ladder of a lattice take (R99 to R110, R449). -/
structure Ladder where
  ve : Nat
  recOff : Nat                       -- SRAM byte offset of the ladder record
  energies : List Int                -- per replica slot, INT64 units of 2^-16
  last : Nat                         -- step of the last round run, 0 for none
  cands : List Cand                  -- candidates waiting for insertion
  entries : Nat                      -- cistern entries in the table
  free : List Nat                    -- free pool slots, ascending
  counts : List Nat                  -- the eight statistics counts of R110
  offers : List Nat
  accepts : List Nat
  top : List Bool                    -- reached rung K-1 since the last visit to rung 0
  trips : List Nat
  notice : Nat                       -- the last round notice, 1,024 bits
  deriving DecidableEq, Repr

/-- What RESTORE brought for the ladder (R343, R347): cistern entries, last notice, statistics block, energies,
step. -/
structure LadderRestore where
  entries : Nat
  notice : Nat
  stats : List Byte
  energies : List Int
  step : Nat
  deriving DecidableEq, Repr

/-- A clapper message of another device (R308): kind 0 arrive, 2 stop. -/
structure XMsg where
  id : Nat
  kind : Nat
  status : Nat
  sender : Nat
  step : Nat
  takeId : Nat
  occ : Nat
  deriving DecidableEq, Repr

/-- A unit to be retired (R355). -/
inductive Retire where
  | site (s : Nat)
  | bank (c b : Nat)
  | row (v ibank line : Nat) (lost : Bool)   -- the row that holds a line, local address bits [35:6]
  | vault (v : Nat)
  | block (pg : Page)
  | pump (n : Nat)
  | column (c : Nat)
  deriving DecidableEq, Repr

/-- The partition's take (R210 to R216). Its state code is MB_STATUS.state. -/
structure Take where
  cmd : LoadCmd := {}
  cs : CallSheet := {}
  members : List Member := []
  stops : Stops := {}
  stopId : Nat := 0
  faulted : List Page := []
  occ : List (Nat × Nat) := []           -- occurrences resolved so far, by logical identifier
  cutAt : List (Nat × Nat) := []         -- CUT waiting: identifier, reel area
  phaseAt : List (Nat × Nat) := []       -- PHASE waiting: identifier, phase
  withheld : Option (Nat × Nat) := none  -- reel capture holds this identifier, into this area
  started : Bool := true                 -- false until a multi-device take's start occurrence releases
  xmsgs : List XMsg := []                -- clapper messages of other devices waiting at the root
  xsent : List Nat := []                 -- identifiers whose own arrival or stop has been sent to the root
  frameExt : Nat := 0                    -- beats by which standing spares lengthen every fixed frame (R359)
  spares : Nat := 0                      -- spares standing in for tiles of the take
  retire : List Retire := []             -- units to retire once the completion record is posted (R353)
  beat : Nat := 0                        -- the take's beat counter (R204)
  fixed : Tbl Nat := []                  -- the count that the last occurrence of each identifier set
  refresh : Nat := 0
  retry : Nat := 0
  step : Nat := 0                        -- the common step count of the marking members (R203)
  watchdog : Nat := 0
  phase : Nat := 0
  activeSet : Nat := 0
  switches : Nat := 0
  planDelta : Int := 0                   -- of the route set in force
  spareDelta : Int := 0                  -- beats by which standing spares lengthen the plan (R216, R359)
  failedLinks : Nat := 0
  snapshot : List (Page × List Nat) := []   -- member counters at GO, for the dailies
  throttle0 : Nat := 0
  written : List (Nat × Nat) := []       -- address ranges the take has written (R21)
  owners : List (Nat × Nat) := []        -- BANK_OWNER of each taken bank before the take (R221), by key
  guards : List Nat := []                -- vaults guarded for the take
  flits : List Travel := []              -- deltas, gate deltas and edge records on their way
  strips : List Strip := []
  reds : List RedPart := []
  sends : List (Nat × Nat) := []         -- sends so far, by 256 * tile + slot
  notices : List (Nat × Nat) := []       -- round notices on their way: tile, notice
  ladder : Option Ladder := none
  laden : List Int := []                 -- energies sent to the ladder engine before it is armed, by replica (R97)
  restore : Option LadderRestore := none
  clapScript : List Nat := []
  drbgBytes : Nat := 0
  diverged : Bool := false
  usesDrbg : Bool := false
  finished : Bool := false               -- END released, or stopped
  status : Nat := 0
  deriving DecidableEq, Repr

/-- An armed sample tap (R79, R80). -/
structure Tap where
  k : Nat
  base : Nat
  ring : Nat
  stride : Nat
  sel : List Nat
  count : Nat
  deriving DecidableEq, Repr

/-- An accumulator register of a matrix engine (R131, R156 to R161): accumulation format, chunk length, groups
since the accumulation began, whether a spill has run, the accumulation flag, whether its last product was an
early-clap MMA_FLIP, and run and total of each cell by 512 * row + column. -/
structure AccReg where
  acc : Nat := 0
  chunk : Nat := 0
  groups : Nat := 0
  spilled : Bool := false
  flag : Bool := false
  early : Bool := false
  cells : List (Nat × Nat × Nat) := []
  deriving DecidableEq, Repr

/-- What a sampling tile holds beside its SRAM and its page. -/
structure TileSt where
  last : List Flip := []                 -- changes of the last step run, for STRIP_SEND (R140)
  tap : Option Tap := none
  saved : List Nat := []                 -- field words at GO, for verify_init (R67)
  energy : List Int := []                -- lattice: one accumulator per replica (R97)
  edges : List (Nat × Nat) := []         -- lattice: edge records applied, by step and 1024*dir + group
  deriving DecidableEq, Repr

/-- A request of an entropy ring in service (R390): its entry as a 256-bit number, and bytes delivered so far. -/
structure EntReq where
  entry : Nat
  done : Nat := 0
  deriving DecidableEq, Repr

/-- The entropy source. Consumers of samples (R389) by code: internal instance k: k; port instance i of port p:
64 + 32p + i; raw request of ring i: 128 + 32p + i; TRNG_RAW of port p: 192 + p. -/
structure EntSt where
  drbg : Tbl Drbg := []                  -- 0-31 port A, 32-63 port B, 64-71 internal 0-7
  pool : Tbl (List Bool) := []           -- samples a consumer has so far
  block : Tbl (Nat × List Bool) := []    -- a cell's current block: its consumer and its samples so far
  tests : Tbl (List Bool) := []          -- samples of a cell's start-up test so far
  pat : Tbl Nat := []                    -- next bit of TRNG_PATTERN, by cell
  turnB2 : Bool := false                 -- class 2: port B is next while both wait
  turnB3 : Bool := false                 -- class 3
  reqs : Tbl EntReq := []                -- by 32p + i
  deriving DecidableEq, Repr

/-- The sealing key of a partition (R345). -/
structure ReelKey where
  key : List Nat := []
  id : Nat := 0
  nonce : Nat := 0                       -- the 64-bit prefix
  used : Nat := 0
  deriving DecidableEq, Repr

/-- The partition's sealing key; the reel command in progress with what it will report (R351), and whether it still
waits for the key instance to reseed; whether a capture is being written (R339). -/
structure ReelSt where
  key : Option ReelKey := none
  cmd : Nat := 0
  result : Nat := 0
  record : Nat := 0xFFFF
  waits : Bool := false
  capturing : Bool := false
  deriving DecidableEq, Repr

/-! ### Memories -/

/-- An access to a bank: view 0 normal, 1 set alias, 2 clear alias; address of the first byte in the normal
view; no data for a read. -/
structure BankAcc where
  who : Who
  view : Nat
  addr : Nat
  len : Nat
  write : Bool
  data : List Byte
  deriving DecidableEq, Repr

/-- The pending write step of a merge: where it writes and what (R222, R223). -/
structure Merge where
  addr : Nat
  data : List Byte
  deriving DecidableEq, Repr

/-- A scheduled access that a vault completed (R19, R232): its beat, its script's index in the script table, and for a
write the bytes it replaced. -/
structure VaultUse where
  beat : Nat
  member : Nat
  write : Bool
  addr : Nat
  old : List Byte
  deriving DecidableEq, Repr

/-- Banks in transition: their waiting accesses, merges and power changes, by 256 * column + bank. -/
structure BankSt where
  waiting : Tbl (List BankAcc) := []
  merges : Tbl Merge := []
  region : Tbl Nat := []                 -- the tester's next 256-byte region, by column
  lockWait : List (Nat × Nat) := []      -- (target, lock code): target 256c + b, or 2^16 + v for vaults
  rowsUsed : Tbl Nat := []               -- spare rows used, by 64 * vault + internal bank
  repairs : List (Nat × Nat × Nat × Nat) := []   -- remapped rows: vault, internal bank, line, spare row
  scrub : Tbl Nat := []                  -- next line of the patrol scrub, by vault
  temps : Tbl Nat := []                  -- layer sensor readings, by 4 * column + layer
  portBeat : Tbl VaultUse := []          -- a vault port's last scheduled access, by vault
  ibBeat : Tbl VaultUse := []            -- the same for an internal bank, by 64 * vault + internal bank
  deriving DecidableEq, Repr

/-! ### Service arbiters (R255 to R263) -/

/-- A waiting service request: requester code, length of its whole transfer, beats it still asks for, beat from which
it waits. -/
structure ArbReq where
  req : Nat
  len : Nat
  left : Nat
  since : Nat
  deriving DecidableEq, Repr

/-- The holder: requester, length of its whole transfer, beats still to use, beat of its first use, put on by one for
every beat that a scheduled access took from the grant (R24). -/
structure ArbHold where
  req : Nat
  len : Nat
  left : Nat
  first : Nat
  deriving DecidableEq, Repr

/-- One arbitrated port: waiting requests, holder, and when each requester was last granted (by order). -/
structure ArbPort where
  waiting : List ArbReq := []
  holder : Option ArbHold := none
  last : Tbl Nat := []
  order : Nat := 0
  deriving DecidableEq, Repr

/-! ### Pumps (R267 to R290) -/

/-- An open pump LOOP: index of its body's first word, body words, passes still to run, pass number, strides. -/
structure PumpLoop where
  start : Nat
  body : Nat
  left : Nat
  pass : Nat
  src : Int
  dst : Int
  deriving DecidableEq, Repr

/-- A read of host memory (space 0) or of another device (space 1) that a program waits for, with its data once
they have come. Part 0: source; 1: reference; 2: a destination line written in part; 3: confirmation; 4: well
entry; 5: program words. -/
structure Fetch where
  part : Nat
  space : Nat
  addr : Nat
  len : Nat
  data : Option (List Byte) := none
  retried : Bool := false
  deriving DecidableEq, Repr

/-- What a running program waits for: its entry or words, nothing (at an instruction boundary), reads of the
instruction at its program counter, the condition of a WAIT (with the identifier's releases before it began), or
space in its completion ring. -/
inductive PumpPhase where
  | load
  | run
  | data
  | cond (since : Nat)
  | ring
  deriving DecidableEq, Repr

/-- A completion entry to post (R280): status, program word, value, and whether the vector is wanted beside what
R281 asks for. -/
structure PumpPost where
  status : Nat
  word : Nat
  value : Nat
  irq : Bool
  deriving DecidableEq, Repr

/-- A program of a pump channel (R270 to R278): where its entry stands, what the entry says, its words, loops and
comparison so far, a stop asked for, and of its writes: the last lines in host memory, at a device global address and
on another device, and the place of the last instruction that wrote on another device. -/
structure Prog where
  ch : Nat
  entry : Nat
  confirm : Nat := 0
  irq : Bool := false
  inline : Bool := false
  tag : Nat := 0
  prog : Nat := 0
  nwords : Nat := 0
  words : List Nat := []
  pc : Nat := 0
  loops : List PumpLoop := []
  mismatch : Nat := 0
  first : Nat := 2 ^ 64 - 1
  phase : PumpPhase := .load
  fetch : List Fetch := []
  post : Option PumpPost := none
  stop : Bool := false
  lastHost : Option Nat := none
  lastRemote : Option Nat := none
  lastDev : Option Nat := none
  rmt : Option (Nat × List PumpLoop) := none
  deriving DecidableEq, Repr

/-- A channel: its halted program, a program to resume, its fault latch, entries posted since its last vector. -/
structure Chan where
  halted : Option Prog := none
  resumed : Option Prog := none
  cause : Nat := 0
  dir : Nat := 0
  space : Nat := 0
  word : Nat := 0
  addr : Nat := 0
  posted : Nat := 0
  deriving DecidableEq, Repr

/-- A well entry read ahead of its turn (R284): its channel, its place in the ring, and its bytes once they are here. -/
structure Ahead where
  ch : Nat
  entry : Nat
  data : Option (List Byte) := none
  deriving DecidableEq, Repr

/-- A pump engine: the running program, programs that ended while halted and wait to post, an entry read ahead, its
channels, and the order of grants. -/
structure PumpSt where
  prog : Option Prog := none
  held : List Prog := []
  ahead : Option Ahead := none
  chans : Tbl Chan := []
  last : Tbl Nat := []
  order : Nat := 0
  deriving DecidableEq, Repr

/-! ### Links (R291 to R319) -/

/-- A control flit waiting for a link: a service flit, a link-management message, or a recovery flit with the link
it was meant for and its sequence number there (R302). -/
inductive CtlItem where
  | service (body : Nat)
  | management (body : Nat)
  | recovery (link seq body : Nat)
  deriving DecidableEq, Repr

/-- A link's transmit and receive state. Flits are 2,048-bit numbers (R298). -/
structure LinkSt where
  replay : List Nat := []                -- sent and not acknowledged, oldest first
  ctl : List CtlItem := []               -- control flits waiting
  clap : List Nat := []                  -- clapper flits waiting
  flows : Tbl (List Nat) := []           -- bodies ready, by flow
  bulk : Nat := 64                       -- credits
  red : Nat := 32
  ctlCr : Nat := 32
  txPos : Nat := 0                       -- position in the slot table
  rxPos : Nat := 0
  rxSeq : Nat := 255                     -- sequence number of the last flit received in order
  heard : Bool := false                  -- a flit has been received in order since training
  half : Option Nat := none              -- flit A of the codeword being filled
  due : Nat := 0                         -- credits to return, at their places in the control word
  nak : Bool := false
  failed : Option Nat := none            -- sequence number that has failed once
  corr : List (Nat × Nat) := []          -- corrected symbols of the two lanes, last 1,024 codewords, newest first
  recal : Nat := 0                       -- recalibration: 1 held by a take, 2 asked for, under its locks
  retrain : Bool := false                -- retraining held until the link leaves its take
  deriving DecidableEq, Repr

/-- A gateway: write-flow offsets in 16-byte units, segments of mesh flows, forked flits waiting, failed links
whose later flits go as recovery flits until the next occurrence (R302, R306, R312). -/
structure GwSt where
  offs : Tbl Nat := []
  segs : Tbl (List Nat) := []
  forks : List (Nat × Nat) := []         -- flow, body
  recover : List Nat := []
  deriving DecidableEq, Repr

/-! ### Host ports -/

/-- A host port: MSI-X table words that differ from reset (by index), pending vectors, PERST#, PCIe state. -/
structure PortSt where
  msix : Tbl Nat := []
  pba : List Nat := []
  perst : Bool := true                   -- PERST# asserted
  cfg : Bool := false                    -- configuration space answers
  d3 : Bool := false                     -- D3hot
  deriving DecidableEq, Repr

/-! ### Control complex -/

/-- The module record (R399, R400): factory part and field part. -/
structure ModRec where
  factory : Bool := false
  serial : Nat := 0
  part : Nat := 0x3832312D34564B49       -- 16 ASCII bytes, little-endian: IKV4-128
  plan : Option (List Nat) := none       -- words of the default partition plan (R328)
  inactive : Nat := 0
  bad : List Nat := []                   -- sites bad from the factory
  failed : List Nat := []                -- sites failed in the field
  spares : List Nat := []                -- good sites beyond the home positions
  spareMap : Tbl Nat := []               -- spare site to the site it stands for
  retired : List Page := []              -- blocks retired, sites apart
  badBanks : List (Nat × Nat) := []      -- banks retired: column, bank
  badVaults : List Nat := []             -- vaults retired
  svn : Nat := 0
  boot : Nat := 0
  seq : Nat := 1
  deriving DecidableEq, Repr

/-- A firmware slot of the flash: the image's bytes. -/
structure FwSlot where
  image : List Byte := []
  valid : Bool := false
  version : Nat := 0
  svn : Nat := 0
  low : Nat := 1
  high : Nat := 3
  majors : Nat := 0x18
  minor : Nat := 0
  deriving DecidableEq, Repr

/-- Work in progress of the control complex. -/
structure CtlSt where
  mbox : List (Port × Nat) := []         -- mailbox commands held during an activation
  fwA : FwSlot := { valid := true }
  fwB : FwSlot := {}
  fwJob : Nat := 0                       -- 1 WRITE, 2 VERIFY in progress
  fwImage : Option (List Byte) := none   -- image a PLDM message brought for that WRITE
  fwNext : Option Nat := none            -- slot to activate
  fwPrev : Option Nat := none            -- slot to fall back to: the new image is not alive yet
  repJob : Tbl (Nat × Nat × Nat) := []   -- repair command in progress, by port: command, type, instance
  gen : Tbl (Nat × Nat) := []            -- probe evaluation in progress, by port: x and result
  subst : Option (Nat × Nat) := none     -- failed site and the spare under test
  substQ : List Nat := []                -- failed sites waiting for a spare
  plan : Option (List Nat) := none       -- words of the plan being applied
  seqA : Nat := 0                        -- fault-log entries written
  seqB : Nat := 0
  noGrade : List Port := []              -- partitions that can run no take of the module's grade (R360)
  deriving DecidableEq, Repr

/-- The sluice: own throttle levels and last estimates of blocks by page base, the core-wide rise of levels
(R376), and the grant a partition's ceilings are scaled to, by port (R377). -/
structure SluiceSt where
  level : Tbl Nat := []
  power : Tbl Nat := []
  core : Nat := 0
  scale : Tbl Nat := []
  deriving DecidableEq, Repr

/-- Power, pins and the standby side of the module. -/
structure PwrSt where
  en : Bool := true                      -- PWR_EN
  inRange : Bool := true                 -- 54 V input
  good : Bool := true                    -- PWR_GOOD released
  trip : Bool := false                   -- THERMTRIP_N asserted
  alert : Bool := false                  -- ALERT_N asserted
  factoryN : Bool := true                -- FACTORY_N high
  cables : Tbl (Bool × Nat × Nat) := []  -- cables plugged, by cage: eight-lane OSFP, declared power, identifier
  temps : Tbl Nat := []                  -- die sensors by column
  uartIn : List Nat := []                -- bytes the debug UART has accepted
  deriving DecidableEq, Repr

/-- The response to the last bus access: data read, and whether it was refused. -/
inductive Resp where
  | none
  | ok
  | data (value : Nat)
  | error                                -- an error completion; a read returns all ones
  | completerAbort
  | unsupported
  | notReady                             -- the sideband before stage 3 of power-up (R420)
  | denied
  | poisoned
  deriving DecidableEq, Repr

/-- A flit at a router: its input port, payload and sideband. -/
structure MeshFlit where
  port : Nat
  payload : Nat
  side : Nat
  deriving DecidableEq, Repr

/-- What the block drives outward. -/
inductive Out where
  | msix (p : Port) (vector addr data : Nat)              -- MSI-X message
  | hostWrite (p : Port) (addr : Nat) (data : List Byte)  -- posted PCIe write
  | hostRead (p : Port) (addr len tag : Nat)              -- PCIe read request
  | flit (node port vc : Nat) (payload sideband : Nat)    -- flit leaving a router port, 1 north to 5 local
  | inject (node vc : Nat) (payload sideband : Nat)        -- flit a block gives its router
  | linkFlit (link vc flow : Nat) (payload : Nat)         -- flit that takes a position of a link's codewords
  | codeword (link value : Nat)                           -- data symbols of a codeword leaving a link (R296)
  | recovery (link seq via body : Nat)                    -- recovery flit for a link, sent over another
  | clap (device kind id occ : Nat)                       -- clapper message to another device
  | pin (name : String) (level : Bool)
  | pldm (sensor value : Nat)
  | uart (b : Nat)
  | bankDone (column bank addr : Nat) (answer : Resp)      -- an access that had waited at a bank, or a merge, completes
  deriving DecidableEq, Repr

/-- Everything the device holds beside the queue of commands. -/
structure Dev where
  regs : Regs := Regs.empty
  mem : Mem := Mem.empty
  free : Nat := 0
  resp : Resp := .none
  out : List Out := []
  beatErrs : Option (List Page) := none  -- in a command of one beat: blocks whose ERR_FIRST it has captured (R433)
  takeA : Take := {}
  takeB : Take := {}
  tiles : Tbl TileSt := []
  accs : Tbl AccReg := []                -- by 4 * engine + 2 * half + register
  groups : Tbl (List Nat) := []          -- column-group records in force, by 2 * engine + half
  ent : EntSt := {}
  reelA : ReelSt := {}
  reelB : ReelSt := {}
  banks : BankSt := {}
  arbs : Tbl ArbPort := []               -- by 8 * arbiter + port
  held : Tbl (List MeshFlit) := []       -- clapper and service flits in a router's input buffers, oldest first, by node
  credit : Tbl Nat := []                 -- service flits that an input buffer holds or has coming, by 8 * node + port
  pumps : Tbl PumpSt := []
  links : Tbl LinkSt := []
  gws : Tbl GwSt := []
  portA : PortSt := {}
  portB : PortSt := {}
  ctl : CtlSt := {}
  rels : Tbl Nat := []                   -- releases of each clapper identifier since reset
  sluice : SluiceSt := {}
  pwr : PwrSt := {}
  record : ModRec := {}
  deriving DecidableEq, Repr

/-- The block: its device, and the commands waiting, the next one first. -/
structure State where
  dev : Dev
  pending : List Instr
  deriving DecidableEq, Repr

/-- Reasons for a step to stop. The spec gives every command an effect, so there is one reason only. -/
inductive Fault where
  /-- Raised by no command. Safe: a machine that never stops here goes on as the spec says. -/
  | broken
  deriving DecidableEq, Repr

/-- Commands the model turns away. -/
inductive Refusal where
  /-- A command whose meaning is not written, by its mnemonic; raised by `exec` only. Safe: the machine stops. -/
  | notModelled (mnemonic : String)
  deriving DecidableEq, Repr

/-- The module record at reset: the ninth site of each column a spare (DESIGN CHOICE, log 12). -/
def ModRec.shipped : ModRec := { spares := (List.range 16).map (9 * · + 8) }

/-- Right after reset: every register at its reset value, memory zero, both PERST# asserted, nothing waiting. -/
def State.reset : State := { dev := { record := ModRec.shipped }, pending := [] }

end Sys2Proof.Machine
end

