-- ==== Sys2Proof/Machine/Ops.lean ====
section
/-!
DEFINITION. The named operations over registers, memory and error state that every command's meaning is
built from.
-/

namespace Sys2Proof.Machine

/-! ### Tables -/

def tget (dflt : α) (t : Tbl α) (k : Nat) : α := (findKey k t).getD dflt
def tput (t : Tbl α) (k : Nat) (v : α) : Tbl α := putKey k v t
def tdel (t : Tbl α) (k : Nat) : Tbl α := dropKey k t

/-- Element `i` of a list replaced; a list too short is left as it is. -/
def setAt : List α → Nat → α → List α
  | [], _, _ => []
  | _ :: t, 0, v => v :: t
  | h :: t, i + 1, v => h :: setAt t i v

/-- `n` times a state transformer over 0, 1, …, n − 1. -/
def forN (n : Nat) (f : Nat → α → α) (a : α) : α := (List.range n).foldl (fun x i => f i x) a

/-! ### Registers -/

/-- The value of the field at bit `lo` of the register at page offset `off`. -/
def Dev.rd (d : Dev) (pg : Page) (off lo : Nat) : Nat := d.regs.get (fieldKey (pg.base + off) lo)

/-- Give a field a value; a value it cannot hold changes nothing. -/
def Dev.wr (d : Dev) (pg : Page) (off lo v : Nat) : Dev :=
  { d with regs := d.regs.set (fieldKey (pg.base + off) lo) v }

def Dev.wrBool (d : Dev) (pg : Page) (off lo : Nat) (b : Bool) : Dev := d.wr pg off lo b.toNat

def Dev.rdBool (d : Dev) (pg : Page) (off lo : Nat) : Bool := d.rd pg off lo == 1

/-- Add to a 64-bit counter, modulo 2^64 (R82). -/
def Dev.bump (d : Dev) (pg : Page) (off n : Nat) : Dev :=
  if n = 0 then d else d.wr pg off 0 ((d.rd pg off 0 + n) % 2 ^ 64)

/-- Add to a 32-bit count that saturates. -/
def Dev.bumpSat (d : Dev) (pg : Page) (off lo n : Nat) : Dev :=
  d.wr pg off lo (min (d.rd pg off lo + n) (2 ^ 32 - 1))

/-- A 64-bit value held in two 32-bit registers. -/
def Dev.rd64 (d : Dev) (pg : Page) (off : Nat) : Nat := d.rd pg off 0 + d.rd pg (off + 4) 0 * 2 ^ 32

def Dev.wr64 (d : Dev) (pg : Page) (off v : Nat) : Dev :=
  (d.wr pg off 0 (v % 2 ^ 32)).wr pg (off + 4) 0 (v / 2 ^ 32)

/-- The 32-bit word a register holds: its fields at their places. A write-only field reads as zero (R12). -/
def Dev.word (d : Dev) (pg : Page) (off : Nat) : Nat :=
  ((fieldsAt pg off).map fun f =>
    if f.acc == .wo then 0 else (d.rd pg off f.lo % 2 ^ 32) * 2 ^ f.lo).sum

/-- Would a write of the 32-bit word place a reserved code in a field, or give a command of a reserved code (R13)? A router slot entry whose `red_a` is
0 while `red_b` is not is one too (R250). -/
def wordReserved (pg : Page) (off w : Nat) : Bool :=
  ((fieldsAt pg off).any fun f => (f.acc == .rw || f.acc == .wo) && !f.ok (bits w f.lo f.width)) ||
    (match pg with
      | .slot _ _ => 0x100 ≤ off && bits w 15 3 = 0 && bits w 18 3 != 0
      | _ => false)

/-- Clear a page's counters and their high-word latches (R82). -/
def Dev.clearCounters (d : Dev) (pg : Page) : Dev :=
  { d with regs := d.regs.resetWhere fun k => decide (32 * (pg.base + 0x40) ≤ k ∧ k < 32 * (pg.base + 0x100)) }

/-- Give every writable field of a register its bits of a word. -/
def Dev.putFields (d : Dev) (pg : Page) (off w : Nat) (pick : Field → Bool) : Dev :=
  (fieldsAt pg off).foldl (fun d f => if pick f then d.wr pg off f.lo (bits w f.lo f.width) else d) d

/-- VC_GUARDj, whose `guard` only the control complex writes (R239, R242). -/
def guardReg : Page → Nat → Bool
  | .vc _, off => 0x200 ≤ off && off < 0x400
  | _, _ => false

/-- A page write of a call sheet (R207): the writable fields, the vault guard, and `cnt_clear`. -/
def Dev.pageWrite (d : Dev) (addr w : Nat) : Dev :=
  match pageOf addr with
  | none => d
  | some (pg, off) =>
    if wordReserved pg off w then d
    else
      let d := d.putFields pg off w fun f => f.acc == .rw || (guardReg pg off && f.lo == 0)
      if (fieldsAt pg off).any (fun f => f.clr && bit w f.lo) then d.clearCounters pg else d

/-! ### Memory -/

/-- The `n` bytes from an address. -/
def Dev.bytes (d : Dev) (a : Nat) : Nat → List Byte
  | 0 => []
  | n + 1 => d.mem.get a :: d.bytes (a + 1) n

/-- A little-endian number (R9). -/
def leNat : List Byte → Nat
  | [] => 0
  | b :: t => b.toNat + 256 * leNat t

/-- `n` bytes of a number, least significant first. -/
def leBytes : Nat → Nat → List Byte
  | 0, _ => []
  | n + 1, v => BitVec.ofNat 8 v :: leBytes n (v / 256)

/-- Pieces of `w` elements. -/
def chunks (w : Nat) : Nat → List α → List (List α)
  | 0, _ => []
  | f + 1, l => if l.isEmpty then [] else l.take w :: chunks w f (l.drop w)

/-- Values side by side, `w` bits each, the first lowest. -/
def packWords (w : Nat) : List Nat → Nat
  | [] => 0
  | v :: vs => v % 2 ^ w + 2 ^ w * packWords w vs

/-- The little-endian number in the `n` bytes from an address. -/
def Dev.ld (d : Dev) (a n : Nat) : Nat := leNat (d.bytes a n)

/-- Write bytes from an address on. -/
def Mem.write (m : Mem) (a : Nat) : List Byte → Mem
  | [] => m
  | b :: t => (m.set a b).write (a + 1) t

def Dev.putBytes (d : Dev) (a : Nat) (bs : List Byte) : Dev := { d with mem := d.mem.write a bs }

/-- Store the low `n` bytes of a number. -/
def Dev.st (d : Dev) (a n v : Nat) : Dev := d.putBytes a (leBytes n v)

/-- The number an element of `w` bits at index `k` of a packed vector holds (R51). -/
def Dev.elem (d : Dev) (base w k : Nat) : Nat :=
  if w = 6 then bits (d.ld (base + 3 * (k / 4)) 3) (6 * (k % 4)) 6
  else if w < 8 then bits (d.ld (base + k * w / 8) 1) (k * w % 8) w
  else d.ld (base + k * (w / 8)) (w / 8)

/-- Bits `lo` to `lo + w - 1` of `n` replaced by `v`. -/
def putBits (n lo w v : Nat) : Nat :=
  n - bits n lo w * 2 ^ lo + (v % 2 ^ w) * 2 ^ lo

/-- Put an element into a packed vector (R51). -/
def Dev.putElem (d : Dev) (base w k v : Nat) : Dev :=
  if w = 6 then
    let a := base + 3 * (k / 4)
    d.st a 3 (putBits (d.ld a 3) (6 * (k % 4)) 6 v)
  else if w < 8 then
    let a := base + k * w / 8
    d.st a 1 (putBits (d.ld a 1) (k * w % 8) w v)
  else d.st (base + k * (w / 8)) (w / 8) v

/-- CRC of a mesh flit: payload bytes 0 to 127, then the sideband with its `crc` taken as zero (R249). -/
def hopCrc (payload side : Nat) : Nat := crc16 (leBytes 128 payload ++ leBytes 8 (putBits side 32 16 0))

/-- Sideband of a flit that node `src` sends to node `dst` on a virtual channel, with the CRC of its port (R248,
R249). -/
def sideband (vc dst src payload : Nat) : Nat :=
  let s := vc + (dst % 256) * 2 ^ 3 + (src % 256) * 2 ^ 11
  s + hopCrc payload s * 2 ^ 32

/-- First byte of tile site s's SRAM in the local map (R11, R240). -/
def tileSram (s : Nat) : Nat := 0x1000000000 + s * 0x400000

/-! ### Free values -/

/-- A value the spec leaves open: 64 bits nothing constrains. -/
def Dev.fresh (d : Dev) : Nat × Dev :=
  ((Config.freeWord d.free).toNat, { d with free := d.free + 1 })

/-- Make `n` bytes from an address undefined: each a free value. -/
def Dev.undefine (d : Dev) (a : Nat) : Nat → Dev
  | 0 => d
  | n + 1 =>
    let (v, d) := d.fresh
    (d.st a 1 (v % 256)).undefine (a + 1) n

/-! ### Output -/

def Dev.emit (d : Dev) (o : Out) : Dev := { d with out := d.out ++ [o] }

/-! ### Takes -/

def Dev.take (d : Dev) : Port → Take
  | .a => d.takeA | .b => d.takeB

def Dev.setTake (d : Dev) (p : Port) (t : Take) : Dev :=
  match p with
  | .a => { d with takeA := t }
  | .b => { d with takeB := t }

def Dev.modTake (d : Dev) (p : Port) (f : Take → Take) : Dev := d.setTake p (f (d.take p))

def mboxPage (p : Port) : Page := .mbox p.idx

/-- Take states of R211, as MB_STATUS.state holds them. -/
abbrev stIdle : Nat := 0
abbrev stValidating : Nat := 1
abbrev stWriting : Nat := 2
abbrev stLoaded : Nat := 3
abbrev stRunning : Nat := 4
abbrev stPosting : Nat := 5

def Dev.takeState (d : Dev) (p : Port) : Nat := d.rd (mboxPage p) 0x120 4
def Dev.setTakeState (d : Dev) (p : Port) (st : Nat) : Dev := d.wr (mboxPage p) 0x120 4 st
def Dev.running (d : Dev) (p : Port) : Bool := d.takeState p == stRunning

/-! ### Ownership of units -/

/-- BLK_OWNER.part (R432): 0 port A, 1 port B, 2 device-wide, 3 unassigned. -/
def Dev.owner (d : Dev) (pg : Page) : Nat := d.rd pg 0x00C 0

def Dev.owns (d : Dev) (p : Port) (pg : Page) : Bool := d.owner pg == p.idx

/-- The site of a logical tile in a partition, by TILE_MAP. -/
def Dev.siteOf (d : Dev) (p : Port) (l : Nat) : Option Nat :=
  (List.range 144).find? fun s => d.owns p (.tile s) && d.rd (.tile s) 0x108 0 == l

/-- The page of a block-list entry (R207, R437): a tile's instance is its logical index. -/
def Dev.blockPage (d : Dev) (p : Port) (b : Nat × Nat) : Option Page :=
  match b.1 with
  | 0x0020 =>
    let c := b.2 / 16
    let r := b.2 % 16
    if c < 16 && r < 11 then some (.router c r) else none
  | 0x0030 => (d.siteOf p b.2).map .tile
  | 0x0040 => if b.2 < 4 then some (.me b.2) else none
  | 0x0050 => if b.2 < 16 then some (.ve b.2) else none
  | 0x0060 => if b.2 < 16 then some (.vc b.2) else none
  | 0x00A0 => if b.2 < 64 then some (.link b.2) else if b.2 < 68 then some (.gw (b.2 - 64)) else none
  | 0x00C0 => if b.2 = 0 then some .clap else none
  | _ => none

/-- The pages of the blocks of a take. -/
def Dev.takePages (d : Dev) (p : Port) : List Page :=
  (d.take p).cs.blocks.filterMap (d.blockPage p)

/-! ### Ownership of memory -/

/-- Partition of a vault (VAULT_PART): 0 port A, 1 port B. -/
def Dev.vaultPart (d : Dev) (v : Nat) : Nat := d.rd (.vc (v / 32)) (0x20C + 16 * (v % 32)) 0

/-- Is a range of DRAM in the partition? -/
def Dev.dramOwned (d : Dev) (p : Port) (a n : Nat) : Bool :=
  n = 0 || (a + n ≤ 2 ^ 36 && (List.range 512).all fun v =>
    (a + n ≤ v * 2 ^ 27 || (v + 1) * 2 ^ 27 ≤ a) || d.vaultPart v == p.idx)

/-- The block whose SRAM holds a local address, in the normal view (R240). -/
def sramPage (a : Nat) : Option Page :=
  if a < 0x1000000000 then none
  else if a < 0x1024000000 then some (.tile ((a - 0x1000000000) / 0x400000))
  else if 0x1030000000 ≤ a && a < 0x1038000000 then
    let o := a - 0x1030000000
    if o % 0x2000000 < 0x1400000 then some (.me (o / 0x2000000)) else none
  else if 0x1038000000 ≤ a && a < 0x1039000000 then some (.ve ((a - 0x1038000000) / 0x100000))
  else none

/-- Is a local range in the partition: DRAM, or SRAM of one block? -/
def Dev.rangeOwned (d : Dev) (p : Port) (a n : Nat) : Bool :=
  if a < 2 ^ 36 then d.dramOwned p a n
  else match sramPage a, sramPage (a + n - 1) with
    | some x, some y => x == y && d.owns p x
    | _, _ => false

/-! ### Errors (R433, R434) -/

/-- Kinds of the code tables: the bit of ERR_STATUS a code sets. -/
inductive ErrKind where
  | logged | schedule | model | lasting
  deriving DecidableEq, Repr

def ErrKind.bit : ErrKind → Nat
  | .logged => 0 | .schedule => 1 | .model => 2 | .lasting => 3

/-- The beat's errors begin: what a block records from here on falls in one beat (R433, log 216). -/
def Dev.oneBeat (d : Dev) : Dev := { d with beatErrs := some [] }

/-- The beat is over. -/
def Dev.beatOver (d : Dev) : Dev := { d with beatErrs := none }

/-- Did a block's ERR_FIRST capture an error of this beat? -/
def Dev.capturedNow (d : Dev) (pg : Page) : Bool := (d.beatErrs.getD []).contains pg

def Dev.capture (d : Dev) (pg : Page) (code detail : Nat) : Dev :=
  { (d.wr pg 0x020 0 (detail % 2 ^ 24)).wr pg 0x020 24 code with beatErrs := d.beatErrs.map (pg :: ·) }

/-- Record an error in a block. A masked logged-only code leaves no trace (R434). Of two errors of one beat ERR_FIRST
captures the lower code (R433). -/
def Dev.recordErr (d : Dev) (pg : Page) (kind : ErrKind) (code detail : Nat) : Dev :=
  if kind == .logged && bit (d.rd pg 0x01C 0) (code - 0x20) then d
  else
    let d := d.wr pg 0x018 kind.bit 1
    if d.rd pg 0x020 24 = 0 then d.capture pg code detail
    else
      let d := d.wr pg 0x018 4 1
      if d.capturedNow pg && code < d.rd pg 0x020 24 then d.capture pg code detail else d

def Dev.logErr (d : Dev) (pg : Page) (code detail : Nat) : Dev := d.recordErr pg .logged code detail

/-! ### A take's copies -/

/-- Vaults that a range of the local space touches and that are being cleared. -/
def Dev.clearingIn (d : Dev) (a n : Nat) : List Nat :=
  ((List.range ((a + n + 2 ^ 27 - 1) / 2 ^ 27 - a / 2 ^ 27)).map (a / 2 ^ 27 + ·)).filter fun v =>
    v < 512 && d.rd (.vc (v / 32)) (0x204 + 16 * (v % 32)) 0 == 1

/-- A vault that is being cleared drops an access: CLEARING is logged (R238). -/
def Dev.logClearing (d : Dev) (vs : List Nat) : Dev :=
  vs.foldl (fun d v => d.logErr (.vc (v / 32)) 0x28 (v % 32)) d

/-- A take reads a range: what lies in a vault that is being cleared reads all ones (R238, log 206). -/
def Dev.takeRead (d : Dev) (a n : Nat) : List Byte × Dev :=
  let vs := d.clearingIn a n
  if vs.isEmpty then (d.bytes a n, d)
  else ((d.bytes a n).zipIdx.map fun x => if vs.contains ((a + x.2) / 2 ^ 27) then 0xFF else x.1, d.logClearing vs)

/-- A take writes bytes, but in a vault that is being cleared. What it writes is undefined after a stop (R21), so the
ranges are remembered. -/
def Dev.takeWrite (d : Dev) (p : Port) (a : Nat) (bs : List Byte) : Dev :=
  if bs.isEmpty then d
  else
    let vs := d.clearingIn a bs.length
    let d := if vs.isEmpty then d.putBytes a bs
      else (d.putBytes a (bs.zipIdx.map fun x =>
        if vs.contains ((a + x.2) / 2 ^ 27) then d.mem.get (a + x.2) else x.1)).logClearing vs
    d.modTake p fun t => { t with written := (a, bs.length) :: t.written }

def Dev.takeSt (d : Dev) (p : Port) (a n v : Nat) : Dev := d.takeWrite p a (leBytes n v)

/-- A take copies a range. -/
def Dev.takeCopy (d : Dev) (p : Port) (dst src n : Nat) : Dev :=
  let r := d.takeRead src n
  r.2.takeWrite p dst r.1

/-! ### ERR_FIRST and ERR_STATUS -/

/-- ERR_FIRST as one word. -/
def Dev.errFirst (d : Dev) (pg : Page) : Nat := d.rd pg 0x020 0 + d.rd pg 0x020 24 * 2 ^ 24

/-- ERR_STATUS as one word. -/
def Dev.errStatus (d : Dev) (pg : Page) : Nat :=
  d.rd pg 0x018 0 + 2 * d.rd pg 0x018 1 + 4 * d.rd pg 0x018 2 + 8 * d.rd pg 0x018 3 + 16 * d.rd pg 0x018 4

def Dev.clearErrFirst (d : Dev) (pg : Page) : Dev := (d.wr pg 0x020 0 0).wr pg 0x020 24 0

/-- Add a page to the faulted blocks of a take (R22). -/
def Take.flag (t : Take) (pg : Page) : Take :=
  if t.faulted.contains pg then t else { t with faulted := pg :: t.faulted }

/-- A block of a running take raises a schedule fault or a MODEL_FAULT: the take stops at its next clapper
(R20, R33). -/
def Dev.raise (d : Dev) (p : Port) (pg : Page) (code detail : Nat) : Dev :=
  if code < 0x10 then
    (d.recordErr pg .schedule code detail).modTake p fun t =>
      { t.flag pg with stops := { t.stops with schedule := true } }
  else
    (d.recordErr pg .model code detail).modTake p fun t =>
      { t.flag pg with stops := { t.stops with model := true } }

/-! ### Host ports: interrupts (R326) -/

def Dev.port (d : Dev) : Port → PortSt
  | .a => d.portA | .b => d.portB

def Dev.setPort (d : Dev) (p : Port) (s : PortSt) : Dev :=
  match p with
  | .a => { d with portA := s }
  | .b => { d with portB := s }

/-- Word `i` of a port's MSI-X table (words 4v to 4v + 3: address low, address high, data, vector control). At
reset every vector is masked (PRESUMED, PCIe, log 14). -/
def PortSt.msixWord (s : PortSt) (i : Nat) : Nat := tget (if i % 4 = 3 then 1 else 0) s.msix i

/-- Send the message of a vector. -/
def Dev.sendVector (d : Dev) (p : Port) (v : Nat) : Dev :=
  let s := d.port p
  d.emit (.msix p v (s.msixWord (4 * v) + s.msixWord (4 * v + 1) * 2 ^ 32) (s.msixWord (4 * v + 2)))

/-- Raise an MSI-X vector of a port (R326): a masked vector stays pending. -/
def Dev.vector (d : Dev) (p : Port) (v : Nat) : Dev :=
  let s := d.port p
  if bit (s.msixWord (4 * v + 3)) 0 then
    if s.pba.contains v then d else d.setPort p { s with pba := v :: s.pba }
  else d.sendVector p v

/-- Write a word of the MSI-X table; a pending vector that is unmasked is sent. -/
def Dev.msixWrite (d : Dev) (p : Port) (i w : Nat) : Dev :=
  let s := d.port p
  let t := if w = (if i % 4 = 3 then 1 else 0) then tdel s.msix i else tput s.msix i w
  let d := d.setPort p { s with msix := t }
  if i % 4 = 3 && !bit w 0 && s.pba.contains (i / 4) then
    (d.setPort p { d.port p with pba := s.pba.filter (· != i / 4) }).sendVector p (i / 4)
  else d

/-! ### Small conveniences -/

def Dev.clearMem (d : Dev) (a n : Nat) : Dev := { d with mem := d.mem.clear a n }

/-- Return every register of a page to its reset value, but for the offsets in `keep`. -/
def Dev.resetPage (d : Dev) (pg : Page) (size : Nat) (keep : Nat → Bool) : Dev :=
  { d with regs := d.regs.resetWhere fun k =>
      decide (32 * pg.base ≤ k ∧ k < 32 * (pg.base + size)) && !keep (k / 32 - pg.base) }

/-! ### The frame of a command -/

/-- Payload bytes of one output through a host port (HP_TX_BYTES): posted writes and MSI-X messages. -/
def Dev.countOne (d : Dev) (o : Out) : Dev :=
  match o with
  | .hostWrite p _ bs => d.bump (.hp p.idx) 0x048 bs.length
  | .msix p _ _ _ => d.bump (.hp p.idx) 0x048 4
  | _ => d

/-- Those of everything a command drives outward. -/
def Dev.countOut (d : Dev) : Dev := d.out.foldl Dev.countOne d

/-- Registers that show what another register holds: `service` and `releasing` of DEV_STATUS (R442), `activating` of
CC_STATUS (chapter 21), CLAP_PART the ranges of the plan in force (R217, R447). -/
def Dev.mirror (d : Dev) : Dev :=
  let d := d.wrBool .ident 0x100 6 (d.rdBool (.rep 0) 0x104 1 || d.rdBool (.rep 1) 0x104 1)
  let d := d.wrBool .ident 0x100 7 (d.rdBool .entCell 0x104 8)
  let d := d.wrBool .cc 0x104 4 (d.rdBool .fw 0x104 1)
  let d := (d.wr .clap 0x104 0 (d.rd .part 0x1A0 0)).wr .clap 0x104 8 (d.rd .part 0x1A0 8)
  (d.wr .clap 0x104 16 (d.rd .part 0x1A0 16)).wr .clap 0x104 24 (d.rd .part 0x1A0 24)

def Dev.settle (d : Dev) : Dev := d.countOut.mirror

/-- The device after a command: the response and what it drives outward are this command's own. -/
def Dev.act (d : Dev) (f : Dev → Dev) : Dev := (f { d with out := [], resp := .none, beatErrs := none }).settle

/-- The outcome of a command: the next state, its queue as it was. -/
def State.act (f : Dev → Dev) (s : State) : Host.Outcome State Fault Refusal :=
  .next { s with dev := s.dev.act f }

end Sys2Proof.Machine
end

