-- ==== Sys2Proof/Machine/Script.lean ====
section
/-!
DEFINITION. Scripts in execution (R187, R191): fetching a member's instruction word, loops, beats, arrival at
a clapper; and the common instructions.
-/

namespace Sys2Proof.Machine

def Dev.noteWrite (d : Dev) (p : Port) (a n : Nat) : Dev :=
  if n = 0 || (d.take p).written.any (fun w => w.1 ≤ a && a + n ≤ w.1 + w.2) then d
  else d.modTake p fun t => { t with written := (a, n) :: t.written }

/-- Offset of a block's own memory in the local map: tile SRAM, engine operand buffer, vector-engine SRAM
(R187, R240). -/
def Page.ownMem : Page → Nat
  | .tile s => tileSram s
  | .me q => 0x1030000000 + q * 0x2000000
  | .ve e => 0x1038000000 + e * 0x100000
  | _ => 0

/-- The instruction word a member's script holds at word `i`. -/
def Dev.scriptWord (d : Dev) (t : Take) (m : Member) (i : Nat) : Nat :=
  if m.page == .clap then t.clapScript.getD i 0 else d.ld (m.base + 16 * i) 16

/-- After TAKE_ABORT, once a member has come to an occurrence, no member begins another instruction (R213). -/
def Take.halting (t : Take) : Bool := t.stops.abort && t.members.any (·.arrived.isSome)

/-- The member `k` of a running take that may execute its next instruction, with the word. -/
def Dev.ready (d : Dev) (p : Port) (k : Nat) : Option (Member × Nat) :=
  if d.running p && (d.take p).started && !(d.take p).halting then
    match (d.take p).members[k]? with
    | some m =>
      if m.ended || m.arrived.isSome || m.sweep.isSome || m.waiting || m.len ≤ m.pc then none
      else some (m, d.scriptWord (d.take p) m m.pc)
    | none => none
  else none

/-- Is nothing the take has written undefined: no schedule fault or MODEL_FAULT waits for its stop, or nothing was
written? -/
def Dev.calm (d : Dev) (p : Port) : Bool :=
  !((d.take p).stops.schedule || (d.take p).stops.model) || (d.take p).written.isEmpty

/-- From a schedule fault or a MODEL_FAULT on, what the take has written is undefined (R21, R33): whatever its blocks
read next finds free values. -/
def Dev.spoil (d : Dev) (p : Port) : Dev :=
  if d.calm p then d else (d.take p).written.foldl (fun d w => d.undefine w.1 w.2) d

def opcodeOf (w : Nat) : Nat := bits w 120 8

def Dev.setMember (d : Dev) (p : Port) (k : Nat) (m : Member) : Dev :=
  d.modTake p fun t => { t with members := setAt t.members k m }

def Dev.member (d : Dev) (p : Port) (k : Nat) : Option Member := (d.take p).members[k]?

/-- Where the script goes after a word: back to the body of an open loop that ends here, or on. -/
def loopNext (pc : Nat) : List LoopRec → Nat × List LoopRec
  | [] => (pc, [])
  | l :: ls =>
    if pc = l.start + l.len then
      if 1 < l.left then (l.start, { l with left := l.left - 1 } :: ls) else loopNext pc ls
    else (pc, l :: ls)

/-- Past the instruction just executed, `n` beats later. -/
def Member.next (m : Member) (n : Nat) : Member :=
  let r := loopNext (m.pc + 1) m.loops
  { m with pc := r.1, loops := r.2, beats := m.beats + n }

/-- An instruction of a vector engine completed (R185). -/
def Dev.countInstr (d : Dev) (pg : Page) (elems : Nat) : Dev :=
  match pg with
  | .ve _ => (d.bump pg 0x040 1).bump pg 0x048 elems
  | _ => d

/-- Complete the member's instruction: `n` beats, `elems` elements. -/
def Dev.finish (d : Dev) (p : Port) (k n : Nat) (elems : Nat := 0) : Dev :=
  match d.member p k with
  | some m => (d.setMember p k (m.next n)).countInstr m.page elems
  | none => d

/-- Run `f` on the word of member `k` if its next instruction has opcode `op` and the member's block is one
that `who` admits; otherwise the event does not arise and nothing happens. -/
def Dev.onInstr (d : Dev) (p : Port) (k op : Nat) (who : Page → Bool) (f : Member → Nat → Dev → Dev) : Dev :=
  match d.ready p k with
  | some (m, w) => if opcodeOf w = op && who m.page then f m w (d.spoil p) else d
  | none => d

def Page.isTile : Page → Bool | .tile _ => true | _ => false
def Page.isMe : Page → Bool | .me _ => true | _ => false
def Page.isVe : Page → Bool | .ve _ => true | _ => false
def Page.isClap : Page → Bool | .clap => true | _ => false
/-- Blocks that execute the common set but for the clapper unit (R198). -/
def Page.isEngine (pg : Page) : Bool := pg.isTile || pg.isMe || pg.isVe

/-! ### Clapper identifiers (R199) -/

/-- First identifier and number of identifiers of the port's range. -/
def Dev.clapRange (d : Dev) (p : Port) : Nat × Nat :=
  match p with
  | .a => (d.rd .part 0x1A0 0, d.rd .part 0x1A0 8)
  | .b => (d.rd .part 0x1A0 16, d.rd .part 0x1A0 24)

/-- Logical identifier of the END clapper: the last of the range. -/
def Dev.endId (d : Dev) (p : Port) : Nat := (d.clapRange p).2 - 1

/-- Set or clear the pending bit of a logical identifier (CLAP_PEND, R217). -/
def Dev.setPend (d : Dev) (p : Port) (id : Nat) (b : Bool) : Dev :=
  let i := (d.clapRange p).1 + id
  if i < 32 then d.wr .clap 0x108 0 (putBits (d.rd .clap 0x108 0) i 1 b.toNat)
  else if i < 64 then d.wr .clap 0x10C 0 (putBits (d.rd .clap 0x10C 0) (i - 32) 1 b.toNat)
  else d

/-- A member arrives at an identifier and waits for its release (R200). -/
def Dev.arrive (d : Dev) (p : Port) (k id : Nat) : Dev :=
  match d.member p k with
  | some m => (d.setMember p k { m with arrived := some id }).setPend p id true
  | none => d

/-! ### Common instructions (R191) -/

/-- NOP: idle for n beats. -/
def doNop (p : Port) (k : Nat) (d : Dev) : Dev :=
  d.onInstr p k 0x00 (fun pg => pg.isEngine || pg.isClap) fun _ w d => d.finish p k (bits w 0 32)

/-- END: arrive at the END clapper; nothing follows. -/
def doEnd (p : Port) (k : Nat) (d : Dev) : Dev :=
  d.onInstr p k 0x01 (fun pg => pg.isEngine || pg.isClap) fun m _ d =>
    (d.arrive p k (d.endId p)).countInstr m.page 0

/-- CLAP, CLAP_CUT, CLAP_EARLY: arrive and wait for release. -/
def doClapOp (op : Nat) (p : Port) (k : Nat) (d : Dev) : Dev :=
  d.onInstr p k op Page.isEngine fun _ w d => d.arrive p k (bits w 0 6)

def doClap (p : Port) (k : Nat) (d : Dev) : Dev := doClapOp 0x02 p k d
def doClapCut (p : Port) (k : Nat) (d : Dev) : Dev := doClapOp 0x03 p k d
def doClapEarly (p : Port) (k : Nat) (d : Dev) : Dev := doClapOp 0x04 p k d

/-- LOOP: run the following body count times. -/
def doLoop (p : Port) (k : Nat) (d : Dev) : Dev :=
  d.onInstr p k 0x05 (fun pg => pg.isEngine || pg.isClap) fun m w d =>
    let l : LoopRec := ⟨m.pc + 1, bits w 32 16, bits w 0 32⟩
    (d.setMember p k { m with pc := m.pc + 1, loops := l :: m.loops }).countInstr m.page 0

/-- STEP_NOW of a tile (R82). -/
def Dev.showStep (d : Dev) (pg : Page) (t : Nat) : Dev := if pg.isTile then d.wr64 pg 0x140 (t % 2 ^ 48) else d

/-- MARK: m phase marks (R53). -/
def doMark (p : Port) (k : Nat) (d : Dev) : Dev :=
  d.onInstr p k 0x06 Page.isEngine fun m w d =>
    let t := (m.step + bits w 0 32) % 2 ^ 48
    ((d.showStep m.page t).setMember p k { m with step := t }).finish p k 1

/-- The semaphore's value (R280). -/
def Dev.sem (d : Dev) (s : Nat) : Nat := d.rd (.sem s) 0 0

/-- Add to a semaphore; a sum beyond 2^32 − 1 stays there (R287). -/
def Dev.addSem (d : Dev) (s v : Nat) : Dev := d.wr (.sem s) 0 0 (min (d.sem s + v) (2 ^ 32 - 1))

/-- WAIT_SEM: wait until the semaphore holds at least the value. The beats of a wait are class T, and the
spec gives them no value: free. -/
def doWaitSem (p : Port) (k : Nat) (d : Dev) : Dev :=
  d.onInstr p k 0x07 Page.isEngine fun m w d =>
    if bits w 16 32 ≤ d.sem (bits w 0 16) then
      let (n, d) := d.fresh
      d.finish p k (n % 2 ^ 32)
    else d.setMember p k { m with waiting := true }

/-- The semaphore a waiting WAIT_SEM names has reached its value: the script continues. -/
def wakeWaitSem (p : Port) (k : Nat) (d : Dev) : Dev :=
  match d.member p k with
  | some m =>
    let w := d.scriptWord (d.take p) m m.pc
    if m.waiting && opcodeOf w = 0x07 && bits w 16 32 ≤ d.sem (bits w 0 16) then
      let (n, d) := d.fresh
      (d.setMember p k { m with waiting := false }).finish p k (n % 2 ^ 32)
    else d
  | none => d

/-- POST_SEM: add the value to the semaphore. -/
def doPostSem (p : Port) (k : Nat) (d : Dev) : Dev :=
  d.onInstr p k 0x08 Page.isEngine fun _ w d => (d.addSem (bits w 0 16) (bits w 16 32)).finish p k 1

/-- FETCH_SVC: copy lines that service traffic wrote into a bank the take owns. -/
def doFetchSvc (p : Port) (k : Nat) (d : Dev) : Dev :=
  d.onInstr p k 0x09 Page.isEngine fun m w d =>
    let n := bits w 80 16
    (d.takeCopy p (m.page.ownMem + 64 * bits w 48 32) (bits w 0 38) (64 * n)).finish p k
      ((n + 1) / 2 + 16)

end Sys2Proof.Machine
end

