-- ==== Sys2Proof/Machine/Fault.lean ====
section
/-!
DEFINITION. Errors that outlive their retry (R352 to R362): retry counters, the fault log, retirement, the
epochs; the stop of a take (R20 to R22, R215) and the change of route set (R302).
-/

namespace Sys2Proof.Machine

/-! ### Units of the device -/

def allPorts : List Port := [.a, .b]

def tilePages : List Page := (List.range 144).map .tile
def mePages : List Page := (List.range 4).map .me
def vePages : List Page := (List.range 16).map .ve
def vcPages : List Page := (List.range 16).map .vc
def routerPages : List Page := (List.range 16).flatMap fun c => (List.range 11).map fun r => .router c r
def linkPages : List Page := (List.range 64).map .link
def gwPages : List Page := (List.range 4).map .gw

/-- Units with an epoch, but for the clapper unit, which belongs to no partition (R432). -/
def unitPages : List Page :=
  tilePages ++ mePages ++ vePages ++ vcPages ++ routerPages ++ linkPages ++ gwPages

/-- Where a page shows `in_take`, beside its header. -/
def Page.inTakeAt : Page → Option (Nat × Nat)
  | .router _ _ | .tile _ | .me _ | .ve _ | .vc _ | .gw _ => some (0x104, 0)
  | .link _ => some (0x104, 7)
  | _ => none

/-- Where a page shows `stale`, beside its header. -/
def Page.staleAt : Page → Option (Nat × Nat)
  | .router _ _ => some (0x104, 6)
  | .tile _ => some (0x104, 4)
  | .me _ | .ve _ => some (0x104, 2)
  | .link _ => some (0x104, 9)
  | .gw _ => some (0x104, 1)
  | _ => none

/-- Show a unit stale, or not; a router's slot page follows it. -/
def Dev.setStale (d : Dev) (pg : Page) (b : Bool) : Dev :=
  let d := d.wrBool pg 0x014 2 b
  let d := match pg with
    | .router c r => d.wrBool (.slot c r) 0x014 2 b
    | _ => d
  match pg.staleAt with
  | some (o, l) => d.wrBool pg o l b
  | none => d

/-- Mark a page a member of a running take, or not; a router's slot page follows it. -/
def Dev.setInTake (d : Dev) (pg : Page) (b : Bool) : Dev :=
  let d := d.wrBool pg 0x014 3 b
  let d := match pg with
    | .router c r => d.wrBool (.slot c r) 0x014 3 b
    | _ => d
  match pg.inTakeAt with
  | some (o, l) => d.wrBool pg o l b
  | none => d

def Dev.inTake (d : Dev) (pg : Page) : Bool := d.rdBool pg 0x014 3

/-- Give a unit an epoch; the unit reports stale while it differs from its partition's (R406, R432; log 191). -/
def Dev.setEpoch (d : Dev) (pg : Page) (e : Nat) : Dev :=
  let own := d.owner pg
  let stale := decide (own < 2) && e != d.rd (mboxPage (Port.ofIdx own)) 0x150 0
  let d := match pg with
    | .router c r => d.wr (.slot c r) 0x030 0 e
    | _ => d
  (d.wr pg 0x030 0 e).setStale pg stale

/-- Blocks whose epoch a call sheet has been held against report whether it differs from the sheet's (R16, R82). -/
def Dev.showStale (d : Dev) (p : Port) (cs : CallSheet) : Dev :=
  (cs.blocks.filterMap (d.blockPage p)).foldl (fun d pg =>
    if pg.hasEpoch then
      let e := d.rd pg 0x030 0
      d.setStale pg (e != cs.epoch || e != d.rd (mboxPage p) 0x150 0)
    else d) d

/-- Ports whose partition owns a unit; both for a device-wide one (R362). -/
def Dev.ownerPorts (d : Dev) (pg : Page) : List Port :=
  match d.owner pg with
  | 0 => [.a] | 1 => [.b] | 2 => [.a, .b] | _ => []

/-! ### Retries and injected errors (R352, R435) -/

def Dev.retryTransient (d : Dev) (pg : Page) : Dev := d.bumpSat pg 0x028 0 1
def Dev.retryLasting (d : Dev) (pg : Page) : Dev := d.bumpSat pg 0x02C 0 1

/-- The block's next checked transfer: the armed corruption, 0 none, 1 transient, 2 lasting, which then has
fired (R435). -/
def Dev.fire (d : Dev) (pg : Page) : Nat × Dev :=
  let m := d.rd pg 0x024 0
  if m = 0 then (0, d) else (m, (d.wr pg 0x024 0 0).wr pg 0x024 2 1)

/-! ### The fault log (R362) -/

/-- Write an entry into one port's fault log and raise its vector. -/
def Dev.logEntry (d : Dev) (p : Port) (pg : Page) (action site : Nat) : Dev :=
  let q := Page.rep p.idx
  let i := d.rd q 0x104 16 % 64
  let old := match p with | .a => d.ctl.seqA | .b => d.ctl.seqB
  let n := (old + 1) % 2 ^ 32
  let d := match p with
    | .a => { d with ctl := { d.ctl with seqA := n } }
    | .b => { d with ctl := { d.ctl with seqB := n } }
  let o := 16 * i
  let d := d.wr q (0x400 + o) 0 n
  let d := (d.wr q (0x404 + o) 0 pg.blkType).wr q (0x404 + o) 16 pg.blkInstance
  let d := d.wr q (0x408 + o) 0 (d.errFirst pg)
  let d := (d.wr q (0x40C + o) 0 action).wr q (0x40C + o) 8 site
  let d := d.wr q 0x104 16 ((i + 1) % 64)
  let d := d.emit (.uart n)
  let d := if d.pwr.alert then d else d.emit (.pin "ALERT_N" false)
  let d := { d with pwr := { d.pwr with alert := true } }
  if d.rdBool q 0x10C 16 then d.vector p (d.rd q 0x10C 0) else d

/-- One entry on each port whose partition owns the unit. -/
def Dev.faultLog (d : Dev) (pg : Page) (action : Nat) (site : Nat := 0xFF) : Dev :=
  (d.ownerPorts pg).foldl (fun d p => d.logEntry p pg action site) d

/-- Count on the repair page of each port that owns the unit: 0x040 substitutions, 0x048 retirements, 0x050
demotions. -/
def Dev.repCount (d : Dev) (pg : Page) (off : Nat) : Dev :=
  (d.ownerPorts pg).foldl (fun d p => d.bump (.rep p.idx) off 1) d

/-- REP_STATUS.service on the ports that own the unit (R356). -/
def Dev.setService (d : Dev) (pg : Page) : Dev :=
  (d.ownerPorts pg).foldl (fun d p => d.wr (.rep p.idx) 0x104 1 1) d

/-! ### Module record: sites -/

/-- Code of a site: 0 active, 1 spare, 2 failed in the field, 3 bad from the factory. -/
def Dev.siteCode (d : Dev) (s : Nat) : Nat := d.rd (.rep 0) (0x200 + 4 * (s / 16)) (2 * (s % 16))

def Dev.setSiteCode (d : Dev) (s v : Nat) : Dev :=
  allPorts.foldl (fun d p => d.wr (.rep p.idx) (0x200 + 4 * (s / 16)) (2 * (s % 16)) v) d

/-- Rewrite a field-section copy (R400). -/
def Dev.putRecord (d : Dev) (r : ModRec) : Dev := { d with record := { r with seq := (r.seq + 1) % 2 ^ 32 } }

/-! ### Logical tiles (R402) and epochs (R405, R406) -/

/-- Active columns (DEV_GRADE.cols). -/
def Dev.colActive (d : Dev) (c : Nat) : Bool := bit (d.rd .ident 0x104 16) c

/-- Partition of a column: the owner of its vault controller. -/
def Dev.colPart (d : Dev) (c : Nat) : Nat := d.owner (.vc c)

/-- Active columns of a partition without a good spare site in the same or an adjacent column of it (R329). -/
def Dev.uncovered (d : Dev) : Nat :=
  (((List.range 16).filter fun c =>
    d.colActive c && !((List.range 144).any fun t =>
      d.siteCode t == 1 && d.rdBool (.tile t) 0x014 0 && d.rd (.tile t) 0x108 0 == 0xFF &&
        d.owner (.tile t) == d.colPart c && siteCol t ≤ c + 1 && c ≤ siteCol t + 1)).map fun c => 2 ^ c).sum

/-- DEV_SPARES: good spare sites not standing in, and sites failed in the field; PART_STATUS: the columns that no
spare covers. -/
def Dev.countSpares (d : Dev) : Dev :=
  let good := (List.range 144).filter fun s =>
    d.rdBool (.tile s) 0x014 0 && d.rd (.tile s) 0x108 0 = 0xFF
  ((d.wr .ident 0x130 0 good.length).wr .ident 0x130 8 d.record.failed.length).wr .part 0x1C4 16 d.uncovered

/-- Home positions of a column: its 8 lowest sites that the factory section marks active (R402). -/
def Dev.homes (d : Dev) (c : Nat) : List Nat :=
  (((List.range 9).map (9 * c + ·)).filter fun s =>
    !d.record.bad.contains s && !d.record.spares.contains s).take 8

/-- The site that works for a home position: itself, or the spare that stands for it. -/
def Dev.standIn (d : Dev) (s : Nat) : Nat :=
  match d.record.spareMap.find? (fun x => x.2 == s) with
  | some x => x.1
  | none => s

/-- Number the logical tiles of a partition over its active columns, and report their count. -/
def Dev.renumber (d : Dev) (p : Port) : Dev :=
  let cols := (List.range 16).filter fun c => d.colActive c && d.colPart c == p.idx
  let mine := (List.range 144).filter fun s => d.owns p (.tile s)
  let d := mine.foldl (fun d s => d.wr (.tile s) 0x108 0 0xFF) d
  let d := cols.zipIdx.foldl (fun d (x : Nat × Nat) =>
    (d.homes x.1).zipIdx.foldl (fun d (y : Nat × Nat) =>
      let s := d.standIn y.1
      (d.wr (.tile s) 0x108 0 (8 * x.2 + y.2)).wrBool (.tile s) 0x104 5 (s != y.1)) d) d
  d.wr .ident 0x108 (8 * p.idx) (8 * cols.length)

/-- Has a block's SRAM a bank in RET? -/
def Dev.hasRet (d : Dev) (pg : Page) (bank : Nat → Nat × Nat) (n : Nat) : Bool :=
  (List.range n).any fun k => let b := bank k; d.rd (.vc b.1) (0x1008 + 16 * b.2) 4 == 1 && pg != .clap

/-- Bank entry of bank k of a block's SRAM: column and bank index (R218). -/
def Page.bank (pg : Page) (k : Nat) : Nat × Nat :=
  match pg with
  | .tile s => (siteCol s, 16 * (siteRow s - 1) + k)
  | .me q => (4 * q + 2, 144 + k)
  | .ve e => (veCol e, (if veRow e = 0 then 144 else 152) + k)
  | _ => (0, 0)

/-- Number of SRAM banks of a block. -/
def Page.banks : Page → Nat
  | .tile _ => 16 | .me _ => 80 | .ve _ => 8 | _ => 0

/-- The partition epoch increments; units with the old value and no bank in RET follow (R405, R406). -/
def Dev.bumpEpoch (d : Dev) (p : Port) : Dev :=
  let old := d.rd (mboxPage p) 0x150 0
  let new := if old = 2 ^ 32 - 1 then 1 else old + 1
  let d := d.wr (mboxPage p) 0x150 0 new
  (unitPages.filter (d.owns p)).foldl (fun d pg =>
    if d.rd pg 0x030 0 = old && !d.hasRet pg pg.bank pg.banks then d.setEpoch pg new
    else d.setStale pg true) d

/-! ### Retirement (R355, R356, R360) -/

/-- Power every bank of a block off: contents lost, and the block's epoch 0 (R225). -/
def Dev.banksOff (d : Dev) (pg : Page) : Dev :=
  let d := (List.range pg.banks).foldl (fun d k =>
    let b := pg.bank k
    (d.wr (.vc b.1) (0x1008 + 16 * b.2) 0 2).wr (.vc b.1) (0x1008 + 16 * b.2) 4 2) d
  d.setEpoch pg 0

/-- Bytes of a block's SRAM in the local map. -/
def Page.sramSpan : Page → Nat × Nat
  | .tile s => (tileSram s, 0x400000)
  | .me q => (0x1030000000 + q * 0x2000000, 0x1400000)
  | .ve e => (0x1038000000 + e * 0x100000, 0x100000)
  | _ => (0, 0)

def Dev.clearSram (d : Dev) (pg : Page) : Dev := d.clearMem pg.sramSpan.1 pg.sramSpan.2

/-- The `part` event on a port (HP_EVT, R329). -/
def Dev.hpEvent (d : Dev) (p : Port) (i : Nat) : Dev :=
  let d := d.wr (.hp p.idx) 0x110 i 1
  if bit (d.rd (.hp p.idx) 0x100 1) i then d.vector p (d.rd (.hp p.idx) 0x114 0) else d

/-- Demotion to the next lower grade: the column becomes inactive and its good sites spares (R360). A column of no
partition changes no partition. -/
def Dev.demote (d : Dev) (c : Nat) : Dev :=
  let part := d.colPart c
  let p := Port.ofIdx part
  let act := (List.range 16).filter d.colActive
  if act.length ≤ 14 then
    { d.setService (.vc c) with ctl := { d.ctl with noGrade := if part < 2 then p :: d.ctl.noGrade else d.ctl.noGrade } }
  else
    let d := d.wr .ident 0x104 16 (putBits (d.rd .ident 0x104 16) c 1 0)
    let d := d.wr .ident 0x104 0 (8 * (act.length - 1))
    let sites := (List.range 9).map (9 * c + ·)
    let d := sites.foldl (fun d s =>
      let d := d.wr (.tile s) 0x108 0 0xFF
      if d.siteCode s = 0 then d.setSiteCode s 1 else d) d
    let d := if part < 2 then (d.renumber p).bumpEpoch p else d
    let d := (d.repCount (.vc c) 0x050).faultLog (.vc c) 8
    (d.hpEvent .a 1).hpEvent .b 1 |>.countSpares

/-- DEV_RETIRED bit of an edge-row block (R356): engines 0, vector engines 4, pump complexes 20, gateways 24. -/
def Dev.markRetired (d : Dev) (pg : Page) : Dev :=
  let set (lo i : Nat) := d.wr .ident 0x128 lo (putBits (d.rd .ident 0x128 lo) i 1 1)
  match pg with
  | .me q => set 0 q
  | .ve e => set 4 e
  | .arb i => if 64 ≤ i then set 20 (i - 64) else d
  | .gw q => set 24 q
  | .pump n => d.wr .ident 0x12C 0 (putBits (d.rd .ident 0x12C 0) n 1 1)
  | _ => d

/-- A page of a retired unit: `present` falls, `retired` rises, the epoch is 0 (R355, R364). -/
def Dev.retirePage (d : Dev) (pg : Page) : Dev :=
  let r := d.record
  let d := { d with record := { r with retired := if pg.isTile || r.retired.contains pg then r.retired else pg :: r.retired } }
  ((d.wr pg 0x014 0 0).wr pg 0x014 1 1).setEpoch pg 0

/-- A tile site fails: marked in the record, its banks off; a spare is sought when it held a partition's logical tile. -/
def Dev.failSite (d : Dev) (s : Nat) : Dev :=
  let pg := Page.tile s
  if d.record.failed.contains s then d
  else
    let used := d.rd pg 0x108 0 != 0xFF && decide (d.owner pg < 2)
    let r := d.record
    let d := d.putRecord { r with failed := s :: r.failed }
    let d := (d.setSiteCode s 2).banksOff pg
    let d := (d.retirePage pg).repCount pg 0x048
    let d := (d.faultLog pg 6 s).countSpares
    if used then { d with ctl := { d.ctl with substQ := d.ctl.substQ ++ [s] } } else d

/-- The block whose bank lies at index b of column c (R218). -/
def bankBlock (c b : Nat) : Page :=
  if b < 144 then .tile (9 * c + b / 16)
  else if c % 4 = 2 then .me (c / 4)
  else .ve (4 * (c / 4) + c % 4 + (if b < 152 then 0 else 2))

/-- An edge-row block is retired (R356). -/
def Dev.retireBlock (d : Dev) (pg : Page) : Dev :=
  (((d.retirePage pg).markRetired pg).setService pg).repCount pg 0x048 |>.faultLog pg 9

/-- A retired vault belongs to no partition (R355). -/
def Dev.vaultOut (d : Dev) (v : Nat) : Dev :=
  (d.wr (.vc (v / 32)) (0x204 + 16 * (v % 32)) 0 2).wr (.vc (v / 32)) (0x20C + 16 * (v % 32)) 0 3

/-- A vault retires, and stays so in the module record (R355, R435). -/
def Dev.retireVault (d : Dev) (v : Nat) : Dev :=
  let pg := Page.vc (v / 32)
  let d := { d with record := { d.record with badVaults := if d.record.badVaults.contains v then d.record.badVaults else v :: d.record.badVaults } }
  ((d.faultLog pg 3).repCount pg 0x048).vaultOut v

/-- Retire a unit now. A tile's bank takes its site with it (R355). -/
def Dev.retireNow (d : Dev) (r : Retire) : Dev :=
  match r with
  | .site s => d.failSite s
  | .bank c b =>
    let pg := bankBlock c b
    let d := d.wr (.vc c) (0x100C + 16 * b) 16 1
    let d := { d with record := { d.record with badBanks := (c, b) :: d.record.badBanks } }
    (match pg with
      | .tile s => d.failSite s
      | _ => (d.faultLog (.vc c) 1).repCount (.vc c) 0x048)
  | .row v ib line lost =>
    let pg := Page.vc (v / 32)
    let used := tget 0 d.banks.rowsUsed (64 * v + ib)
    if used < 32 then
      let st := 0x204 + 16 * (v % 32)
      let d := { d with banks := { d.banks with
        rowsUsed := tput d.banks.rowsUsed (64 * v + ib) (used + 1)
        repairs := d.banks.repairs ++ [(v, ib, line, used)] } }
      let d := if lost then d.clearMem (64 * line) 64 else d
      (((d.wr pg st 8 (d.rd pg st 8 + 1)).putRecord d.record).repCount pg 0x048).faultLog pg 2
    else d.retireVault v
  | .vault v => d.retireVault v
  | .block pg => d.retireBlock pg
  | .pump n => ((d.retirePage (.pump n)).markRetired (.pump n)).repCount (.pump n) 0x048 |>.faultLog (.pump n) 9
  | .column c => d.demote c

/-- The block at a node (R245). -/
def nodeBlock (c r : Nat) : Retire :=
  if 1 ≤ r && r ≤ 9 then .site (9 * c + r - 1)
  else match c % 4 with
    | 0 => .block (.ve (4 * (c / 4) + (if r = 0 then 0 else 2)))
    | 1 => .block (.ve (4 * (c / 4) + (if r = 0 then 1 else 3)))
    | 2 => .block (.me (c / 4))
    | _ => .block (if r = 0 then .arb (64 + c / 4) else .gw (c / 4))

/-- What retires where the control network fails at a page: its site, or its edge-row block (R355). -/
def Page.retireAs : Page → Option Retire
  | .tile s => some (.site s)
  | .router c r | .slot c r => some (nodeBlock c r)
  | .me q => some (.block (.me q))
  | .ve e => some (.block (.ve e))
  | .gw q => some (.block (.gw q))
  | .pump n => some (.pump n)
  | _ => none

/-- The control network carries page writes, the first of them to `pg`: its transactions are counted, and an injected
error hits the first (R352, log 217). -/
def Dev.ctrlNet (d : Dev) (pg : Page) : Dev :=
  let (n, d) := d.fresh
  let (inj, d) := (d.bump .cc 0x050 n).fire .cc
  if inj = 0 then d
  else if inj = 1 then d.retryTransient .cc
  else
    let d := ((d.recordErr .cc .lasting 0x20 (bits pg.base 12 14)).retryLasting .cc)
    match pg.retireAs with
    | some r => d.retireNow r
    | none => d.faultLog .cc 0

/-- The port whose running take lists a page. -/
def Dev.takeOf (d : Dev) (pg : Page) : Option Port :=
  allPorts.find? fun p => d.running p && (d.takePages p).contains pg

/-- Units to retire with one more: each once, however often its fault is met while the take runs; a row whose data was
lost once is lost (R236). -/
def addRetire (rs : List Retire) (r : Retire) : List Retire :=
  match r with
  | .row v ib line lost =>
    let same : Retire → Bool
      | .row v' ib' line' _ => v == v' && ib == ib' && line == line'
      | _ => false
    if rs.any same then
      rs.map fun x => match x with
        | .row v' ib' line' l => if v == v' && ib == ib' && line == line' then .row v ib line (l || lost) else x
        | _ => x
    else rs ++ [r]
  | _ => if rs.contains r then rs else rs ++ [r]

/-- A lasting fault in a block (R353): recorded, and forwarded to the control complex. With data lost the take
that uses the unit stops; the unit is retired once that take's records are posted, or at once. -/
def Dev.lasting (d : Dev) (pg : Page) (code detail : Nat) (user : Option Port) (lost : Bool) (r : Retire) : Dev :=
  let d := (d.recordErr pg .lasting code detail).retryLasting pg
  match user with
  | some p =>
    if d.running p then
      d.modTake p fun t =>
        let t := if lost then { t.flag pg with stops := { t.stops with lost := true } } else t
        { t with retire := addRetire t.retire r }
    else d.retireNow r
  | none => d.retireNow r

/-- A lasting fault that lost no data and that its block's code table does not name: counted, and the unit retired
once the take that uses it has posted (R353). -/
def Dev.lastingFixed (d : Dev) (pg : Page) (user : Option Port) (r : Retire) : Dev :=
  let d := d.retryLasting pg
  match user with
  | some p => if d.running p then d.modTake p fun t => { t with retire := addRetire t.retire r } else d.retireNow r
  | none => d.retireNow r

/-- A member's block reads an entry of its register file or of a ROM table: where an injection has spoilt the check, it
reads again, one beat of retry stall; the data is correct all the same (R352, R435). -/
def Dev.tableCheck (d : Dev) (p : Port) (k : Nat) (pg : Page) (r : Retire) : Dev :=
  let (inj, d) := d.fire pg
  if inj = 0 then d
  else
    let d := match d.member p k with
      | some m => d.setMember p k { m with beats := m.beats + 1, retry := m.retry + 1 }
      | none => d
    if inj = 1 then d.retryTransient pg else d.lastingFixed pg (some p) r

/-! ### Route sets (R302, R427) -/

/-- Page writes of a sheet over the device. -/
def Dev.applyWrites (d : Dev) (p : Port) (blocks : List (Nat × Nat)) (rs : List PageRec) : Dev :=
  rs.foldl (fun d r =>
    match d.blockPage p (blocks.getD r.blk (0, 0)) with
    | some pg => r.words.zipIdx.foldl (fun d (x : Nat × Nat) => d.pageWrite (pg.base + r.off + 4 * x.2) x.1) d
    | none => d) d

/-- The lowest-numbered alternate set whose trigger mask holds every failed link. -/
def coverSet (routes : List RouteSet) (mask : Nat) : Option RouteSet :=
  ((List.range 4).filterMap fun k =>
    routes.find? fun r => r.num == k + 1 && (List.range 64).all fun i => !bit mask i || bit r.trigger i).head?

/-- LINK_STATUS.state of a link. -/
def Dev.linkState (d : Dev) (i : Nat) : Nat := d.rd (.link i) 0x104 0

/-- Links a take lists. -/
def Take.links (t : Take) : List Nat :=
  t.cs.blocks.filterMap fun b => if b.1 = 0x00A0 && b.2 < 64 then some b.2 else none

/-- A link becomes DOWN, DEGRADED or DRAINING: it counts as failed for every running take that lists it. -/
def Dev.linkFails (d : Dev) (i : Nat) : Dev :=
  allPorts.foldl (fun d p =>
    if d.running p && (d.take p).links.contains i then
      d.modTake p fun t => { t with failedLinks := putBits t.failedLinks i 1 1 }
    else d) d

/-- The recovery of the take's failed links ends at a clapper occurrence (R302). -/
def Dev.endRecovery (d : Dev) (p : Port) : Dev :=
  forN 4 (fun q d =>
    let g := tget {} d.gws q
    let rest := g.recover.filter fun i => !(d.take p).links.contains i
    if rest.length = g.recover.length then d
    else { d with gws := tput d.gws q { g with recover := rest } }.wrBool (.gw q) 0x104 2 (!rest.isEmpty)) d

/-- At a clapper the take changes to the route set that covers its failed links. Where no set does, a link that
is DOWN stops the take with ROUTE_LOST. -/
def Dev.routeSwitch (d : Dev) (p : Port) : Dev :=
  let t := d.take p
  let d := if t.failedLinks = 0 then d else d.endRecovery p
  if t.failedLinks = 0 || (t.cs.routes.any fun r => r.num == t.activeSet && r.num != 0 &&
      (List.range 64).all fun i => !bit t.failedLinks i || bit r.trigger i) then d
  else match coverSet t.cs.routes t.failedLinks with
    | some r =>
      (d.applyWrites p t.cs.blocks r.recs).modTake p fun t =>
        { t with activeSet := r.num, switches := t.switches + 1, planDelta := r.planDelta }
    | none =>
      if (List.range 64).any fun i => bit t.failedLinks i && (d.linkState i = 0 || d.linkState i = 1 || d.linkState i = 6)
      then d.modTake p fun t => { t with stops := { t.stops with route := true } }
      else d

/-! ### Stopping a take (R20, R21, R215) -/

/-- Status of a stop: the first cause in table order. -/
def Stops.status (s : Stops) : Nat :=
  if s.schedule then 0x01 else if s.model then 0x02 else if s.lost then 0x03 else if s.clap then 0x04
  else if s.timeout then 0x05 else if s.route then 0x06 else if s.abort then 0x07 else 0

/-- The mailbox page's counters follow an occurrence (R445). -/
def Dev.reportCounts (d : Dev) (p : Port) : Dev :=
  let t := d.take p
  let m := mboxPage p
  (((d.wr m 0x130 0 t.step).wr m 0x138 0 t.beat).wr m 0x140 0 t.refresh).wr m 0x148 0 t.retry

/-- The watchdog limit a partition's take has in force, as CLAP_WATCH shows it: 0 when off (R217). -/
def Dev.watchOf (d : Dev) (p : Port) : Nat := if d.running p then (d.take p).watchdog % 2 ^ 32 else 0

/-- The take leaves RUNNING: its blocks are members no more, nothing of it is pending at a clapper. -/
def Dev.leaveRun (d : Dev) (p : Port) : Dev :=
  let d := (d.takePages p).foldl (fun d pg => d.setInTake pg false) d
  let d := forN (d.clapRange p).2 (fun i d => d.setPend p i false) d
  d.wr .clap 0x110 0 (d.watchOf p.other)

/-- The take ends with a status and a detail; a stop leaves what it wrote undefined (R21). -/
def Dev.endTake (d : Dev) (p : Port) (status detail : Nat) : Dev :=
  let d := d.modTake p fun t => { t with finished := true, status := status, stopId := detail }
  let d := if status = 0 then d else (d.take p).written.foldl (fun d w => d.undefine w.1 w.2) d
  let d := if status = 0 then d else d.bump .clap 0x048 1
  ((d.reportCounts p).leaveRun p).setTakeState p stPosting

/-- The clapper that ends a general-mode step (R71): a fault or loss raised since the last clapper stops the take
here, else a failed link changes the route set. The step clapper has no logical identifier, so the completion
record's detail is a free value, and so is the step where the tiles' counts differ (log 186). -/
def Dev.stepStop (d : Dev) (p : Port) : Dev :=
  let d := d.routeSwitch p
  let t := d.take p
  let s := { t.stops with abort := false, clap := false, timeout := false }
  if s.status = 0 || !d.running p then d
  else
    let (n, d) := d.fresh
    let ms := t.members.filter (·.page.isTile)
    let (step, d) := match (ms.filter (·.marking)).map (·.step) with
      | [] => (t.step, d)
      | x :: xs => if xs.all (· == x) then (x, d) else (let (k, d) := d.fresh; (k % 2 ^ 48, d))
    let d := d.modTake p fun t => { t with
      step := step
      beat := (ms.map (·.beats)).foldl max t.beat }
    d.endTake p s.status (n % 2 ^ 32)

end Sys2Proof.Machine
end

