-- ==== Sys2Proof/Machine/Float.lean ====
section
/-!
DEFINITION. Numbers and the element formats of R50: decoding a code into an exact value, rounding an exact
value to a format (R52), and the IEEE 754 operations the rules name, each computed exactly and rounded once.
-/

namespace Sys2Proof.Machine

/-- Two's complement reading of the low `w` bits. -/
def toSigned (w n : Nat) : Int :=
  let m := n % 2 ^ w
  if m < 2 ^ (w - 1) then (m : Int) else (m : Int) - (2 ^ w : Nat)

/-- Two's complement code of an integer, modulo `2 ^ w`. -/
def ofSigned (w : Nat) (i : Int) : Nat := (i % ((2 ^ w : Nat) : Int)).toNat

/-- Nearest integer to `m / 2 ^ s`, ties to even. -/
def rneShift (m s : Nat) : Nat :=
  let q := m / 2 ^ s
  let r := m % 2 ^ s
  if s = 0 then m
  else if 2 * r < 2 ^ s then q
  else if 2 * r > 2 ^ s then q + 1
  else if q % 2 = 0 then q else q + 1

/-- Nearest integer to `m · 2 ^ e`, ties to even. -/
def rneScale (m : Nat) (e : Int) : Nat :=
  if 0 ≤ e then m * 2 ^ e.toNat else rneShift m (-e).toNat

/-- Nearest integer to the signed quotient `i / 2 ^ s`, ties to even. -/
def rneInt (i : Int) (s : Nat) : Int :=
  if i < 0 then -((rneShift i.natAbs s : Nat) : Int) else ((rneShift i.natAbs s : Nat) : Int)

/-- Clamp an integer to a range. -/
def clampInt (lo hi i : Int) : Int := if i < lo then lo else if hi < i then hi else i

/-- Integer square root, one bit a round (`n < 4 ^ fuel`). -/
def isqrtAux (n : Nat) : Nat → Nat → Nat
  | 0, acc => acc
  | k + 1, acc =>
    let t := acc + 2 ^ k
    isqrtAux n k (if t * t ≤ n then t else acc)

def isqrt (n : Nat) : Nat := isqrtAux n (Nat.log2 n / 2 + 1) 0

/-- The value a floating or fixed code stands for: `± m · 2 ^ e`, an infinity, or NaN. -/
inductive Num where
  | nan
  | inf (neg : Bool)
  | fin (neg : Bool) (m : Nat) (e : Int)
  deriving DecidableEq, Repr

def Num.zero : Num := .fin false 0 0
def Num.ofInt (i : Int) (e : Int := 0) : Num := .fin (i < 0) i.natAbs e
def Num.isNan : Num → Bool | .nan => true | _ => false
def Num.neg : Num → Num
  | .nan => .nan
  | .inf s => .inf (!s)
  | .fin s m e => .fin (!s) m e
/-- The sign bit. -/
def Num.signBit : Num → Bool
  | .nan => false
  | .inf s => s
  | .fin s _ _ => s

/-- How a floating format marks values that are not finite. -/
inductive Special where
  | ieee      -- infinities and NaN in the top exponent
  | nanOnly   -- E4M3: NaN at S.1111.111, no infinities
  | none      -- neither
  deriving DecidableEq, Repr

/-- A floating format: exponent bits, fraction bits, bias. -/
structure FFmt where
  eb : Nat
  fb : Nat
  bias : Nat
  special : Special
  deriving DecidableEq, Repr

def fp32 : FFmt := ⟨8, 23, 127, .ieee⟩
def fp64 : FFmt := ⟨11, 52, 1023, .ieee⟩
def fp16 : FFmt := ⟨5, 10, 15, .ieee⟩
def bf16 : FFmt := ⟨8, 7, 127, .ieee⟩
def e4m3 : FFmt := ⟨4, 3, 7, .nanOnly⟩
def e5m2 : FFmt := ⟨5, 2, 15, .ieee⟩
def e3m2 : FFmt := ⟨3, 2, 3, .none⟩
def e2m3 : FFmt := ⟨2, 3, 1, .none⟩
def e2m1 : FFmt := ⟨2, 1, 1, .none⟩

def FFmt.width (f : FFmt) : Nat := 1 + f.eb + f.fb

/-- Largest finite magnitude code. -/
def FFmt.maxCode (f : FFmt) : Nat :=
  match f.special with
  | .ieee => (2 ^ f.eb - 1) * 2 ^ f.fb - 1
  | .nanOnly => 2 ^ (f.eb + f.fb) - 2
  | .none => 2 ^ (f.eb + f.fb) - 1

/-- Canonical NaN (sign 0, quiet bit set; E4M3 0x7F); +0 where the format has none (R52). -/
def FFmt.nanCode (f : FFmt) : Nat :=
  match f.special with
  | .ieee => (2 ^ f.eb - 1) * 2 ^ f.fb + 2 ^ (f.fb - 1)
  | .nanOnly => 2 ^ (f.eb + f.fb) - 1
  | .none => 0

/-- The value of a code. -/
def FFmt.decode (f : FFmt) (c : Nat) : Num :=
  let s := bit c (f.eb + f.fb)
  let ex := bits c f.fb f.eb
  let fr := c % 2 ^ f.fb
  let special : Bool :=
    match f.special with
    | .ieee => ex == 2 ^ f.eb - 1
    | .nanOnly => ex == 2 ^ f.eb - 1 && fr == 2 ^ f.fb - 1
    | .none => false
  if special then (if f.special == .ieee && fr == 0 then .inf s else .nan)
  else if ex = 0 then .fin s fr (1 - (f.bias : Int) - f.fb)
  else .fin s (fr + 2 ^ f.fb) ((ex : Int) - f.bias - f.fb)

/-- Magnitude code of `m · 2 ^ e` rounded to nearest even, before any overflow rule. -/
def FFmt.roundMag (f : FFmt) (m : Nat) (e : Int) : Nat :=
  if m = 0 then 0
  else
    let top : Int := (Nat.log2 m : Int) + e
    let qmin : Int := 1 - (f.bias : Int) - f.fb
    let q : Int := max (top - f.fb) qmin
    rneScale m (e - q) + (q - qmin).toNat * 2 ^ f.fb

/-- Round to nearest even with the overflow rule of IEEE arithmetic: to infinity. -/
def FFmt.encode (f : FFmt) : Num → Nat
  | .nan => f.nanCode
  | .inf s => s.toNat * 2 ^ (f.eb + f.fb) +
      (if f.special == .ieee then f.maxCode + 1 else f.maxCode)
  | .fin s m e =>
    let c := f.roundMag m e
    s.toNat * 2 ^ (f.eb + f.fb) +
      (if c ≤ f.maxCode then c else if f.special == .ieee then f.maxCode + 1 else f.maxCode)

/-- Convert to the format by R52: a finite value beyond the range saturates, one from an integer or fixed-point format
as well (DESIGN CHOICE, log 218). The flag is the saturation
indication: a value saturated, or a NaN became a number. -/
def FFmt.convert (f : FFmt) : Num → Nat × Bool
  | .nan => (f.nanCode, f.special == .none)
  | .inf s =>
      (s.toNat * 2 ^ (f.eb + f.fb) + (if f.special == .ieee then f.maxCode + 1 else f.maxCode),
        f.special != .ieee)
  | .fin s m e =>
    let c := f.roundMag m e
    (s.toNat * 2 ^ (f.eb + f.fb) + min c f.maxCode, decide (f.maxCode < c))

/-! ### Exact operations -/

/-- Exact sum of two finite values as an integer over a common exponent. -/
def addFin (s1 : Bool) (m1 : Nat) (e1 : Int) (s2 : Bool) (m2 : Nat) (e2 : Int) : Num :=
  let e := min e1 e2
  let a : Int := (if s1 then -1 else 1) * ((m1 * 2 ^ (e1 - e).toNat : Nat) : Int)
  let b : Int := (if s2 then -1 else 1) * ((m2 * 2 ^ (e2 - e).toNat : Nat) : Int)
  if a + b = 0 then .fin (s1 && s2) 0 e
  else .ofInt (a + b) e

/-- Exact sum, with the IEEE rules for infinities, NaN and the sign of a zero sum. -/
def Num.add : Num → Num → Num
  | .nan, _ => .nan
  | _, .nan => .nan
  | .inf a, .inf b => if a == b then .inf a else .nan
  | .inf a, .fin .. => .inf a
  | .fin .., .inf b => .inf b
  | .fin s1 m1 e1, .fin s2 m2 e2 => addFin s1 m1 e1 s2 m2 e2

def Num.sub (a b : Num) : Num := a.add b.neg

/-- Exact product. -/
def Num.mul : Num → Num → Num
  | .nan, _ => .nan
  | _, .nan => .nan
  | .inf a, .inf b => .inf (a != b)
  | .inf a, .fin s m _ => if m = 0 then .nan else .inf (a != s)
  | .fin s m _, .inf b => if m = 0 then .nan else .inf (s != b)
  | .fin s1 m1 e1, .fin s2 m2 e2 => .fin (s1 != s2) (m1 * m2) (e1 + e2)

/-- Quotient, exact to far more bits than any format holds, the rest folded into a sticky bit. -/
def Num.div : Num → Num → Num
  | .nan, _ => .nan
  | _, .nan => .nan
  | .inf _, .inf _ => .nan
  | .inf a, .fin s _ _ => .inf (a != s)
  | .fin s _ _, .inf b => .fin (s != b) 0 0
  | .fin s1 m1 e1, .fin s2 m2 e2 =>
    if m2 = 0 then (if m1 = 0 then .nan else .inf (s1 != s2))
    else
      let k := 160 + Nat.log2 m2
      let n := m1 * 2 ^ k
      .fin (s1 != s2) (2 * (n / m2) + (if n % m2 = 0 then 0 else 1)) (e1 - e2 - k - 1)

/-- Square root, likewise. -/
def Num.sqrt : Num → Num
  | .nan => .nan
  | .inf s => if s then .nan else .inf false
  | .fin s m e =>
    if m = 0 then .fin s 0 0
    else if s then .nan
    else
      let m' := if e % 2 = 0 then m else 2 * m
      let e' := if e % 2 = 0 then e else e - 1
      let n := m' * 2 ^ 320
      let r := isqrt n
      .fin false (2 * r + (if r * r = n then 0 else 1)) (e' / 2 - 161)

/-- Order on values that are not NaN, with equality of the two zeros; false when either is NaN. -/
def Num.lt (a b : Num) : Bool :=
  match a, b with
  | .nan, _ => false
  | _, .nan => false
  | .inf s, .inf t => s && !t
  | .inf s, .fin .. => s
  | .fin .., .inf t => !t
  | .fin s1 m1 e1, .fin s2 m2 e2 =>
    match addFin s1 m1 e1 (!s2) m2 e2 with
    | .fin s m _ => s && m != 0
    | _ => false

def Num.eq (a b : Num) : Bool := !a.isNan && !b.isNan && !a.lt b && !b.lt a
def Num.le (a b : Num) : Bool := a.lt b || a.eq b

/-! ### Binary32 operations on codes -/

abbrev f32 (c : Nat) : Num := fp32.decode c
def f32add (a b : Nat) : Nat := fp32.encode ((f32 a).add (f32 b))
def f32sub (a b : Nat) : Nat := fp32.encode ((f32 a).sub (f32 b))
def f32mul (a b : Nat) : Nat := fp32.encode ((f32 a).mul (f32 b))
def f32fma (a b c : Nat) : Nat := fp32.encode (((f32 a).mul (f32 b)).add (f32 c))
def f32div (a b : Nat) : Nat := fp32.encode ((f32 a).div (f32 b))
def f32sqrt (a : Nat) : Nat := fp32.encode (f32 a).sqrt
def f32neg (a : Nat) : Nat := if bit a 31 then a - 2 ^ 31 else a % 2 ^ 31 + 2 ^ 31
/-- The binary32 code of `i · 2 ^ e`, rounded once. -/
def f32ofInt (i : Int) (e : Int := 0) : Nat := fp32.encode (.ofInt i e)
def f32one : Nat := 0x3F800000

/-- Floor of a finite value. -/
def Num.floor : Num → Int
  | .fin s m e =>
    let i : Int := if s then -(m : Int) else m
    if 0 ≤ e then i * ((2 ^ e.toNat : Nat) : Int) else i / ((2 ^ (-e).toNat : Nat) : Int)
  | _ => 0

/-! ### Fixed and integer targets -/

/-- Round to `frac` fraction bits and saturate to `w` bits two's complement (R52); NaN and −0 give 0. -/
def Num.toFixed (w frac : Nat) : Num → Int × Bool
  | .nan => (0, true)
  | .inf s => if s then (-((2 ^ (w - 1) : Nat) : Int), true) else (((2 ^ (w - 1) : Nat) : Int) - 1, true)
  | .fin s m e =>
    let n : Int := (rneScale m (e + frac) : Nat)
    let i := if s then -n else n
    let c := clampInt (-((2 ^ (w - 1) : Nat) : Int)) (((2 ^ (w - 1) : Nat) : Int) - 1) i
    (c, c != i)

/-- Round to an unsigned integer of `w` bits and saturate. -/
def Num.toUnsigned (w : Nat) : Num → Nat × Bool
  | .nan => (0, true)
  | .inf s => if s then (0, true) else (2 ^ w - 1, true)
  | .fin s m e =>
    let n := rneScale m e
    if s then (0, n != 0) else (min n (2 ^ w - 1), decide (2 ^ w - 1 < n))

/-! ### Element formats (R50, R51, R52) -/

/-- Element formats by the codes of R50. -/
inductive Fmt where
  | f32 | f16 | bf16 | i16 | fx16 | fx32 | e4m3 | e5m2 | i8 | e3m2 | e2m3 | e2m1 | i4 | spin1 | state4
  | i32 | f64 | i64
  deriving DecidableEq, Repr

def Fmt.ofCode : Nat → Option Fmt
  | 0x0 => some .f32 | 0x1 => some .f16 | 0x2 => some .bf16 | 0x3 => some .i16 | 0x4 => some .fx16
  | 0x5 => some .fx32 | 0x6 => some .e4m3 | 0x7 => some .e5m2 | 0x8 => some .i8 | 0x9 => some .e3m2
  | 0xA => some .e2m3 | 0xB => some .e2m1 | 0xC => some .i4 | 0xD => some .spin1 | 0xE => some .state4
  | 0xF => some .i32 | 0x10 => some .f64 | 0x11 => some .i64
  | _ => none

/-- Width of an element in bits. -/
def Fmt.width : Fmt → Nat
  | .f32 => 32 | .f16 => 16 | .bf16 => 16 | .i16 => 16 | .fx16 => 16 | .fx32 => 32 | .e4m3 => 8
  | .e5m2 => 8 | .i8 => 8 | .e3m2 => 6 | .e2m3 => 6 | .e2m1 => 4 | .i4 => 4 | .spin1 => 1 | .state4 => 4
  | .i32 => 32 | .f64 => 64 | .i64 => 64

/-- The floating formats. -/
def Fmt.float : Fmt → Option FFmt
  | .f32 => some fp32 | .f16 => some Machine.fp16 | .bf16 => some Machine.bf16
  | .e4m3 => some Machine.e4m3 | .e5m2 => some Machine.e5m2 | .e3m2 => some Machine.e3m2
  | .e2m3 => some Machine.e2m3 | .e2m1 => some Machine.e2m1 | .f64 => some fp64
  | _ => none

/-- Fraction bits of an integer or fixed format. -/
def Fmt.frac : Fmt → Nat
  | .fx16 => 12 | .fx32 => 16 | _ => 0

/-- The value of an element code. -/
def Fmt.decode (f : Fmt) (c : Nat) : Num :=
  match f.float with
  | some g => g.decode c
  | none =>
    match f with
    | .spin1 => .ofInt (if c % 2 = 1 then 1 else -1)
    | .state4 => .ofInt ((c % 16 : Nat) : Int)
    | _ => .ofInt (toSigned f.width c) (-(f.frac : Int))

/-- Conversion to a format by R52, with its saturation indication. -/
def Fmt.convert (f : Fmt) (v : Num) : Nat × Bool :=
  match f.float with
  | some g => g.convert v
  | none =>
    match f with
    | .spin1 => ((!v.signBit).toNat, v.isNan)
    | .state4 => v.toUnsigned 4
    | _ => let r := v.toFixed f.width f.frac; (ofSigned f.width r.1, r.2)

/-- Convert a code from one format to another (R52). SPIN1 of a floating code is the complement of its sign
bit, −0 and NaN included. -/
def convertCode (src dst : Fmt) (c : Nat) : Nat × Bool :=
  if src = dst then (c % 2 ^ src.width, false)
  else if dst = .spin1 && src.float.isSome then
    ((!bit c (src.width - 1)).toNat, (src.decode c).isNan)
  else dst.convert (src.decode c)

end Sys2Proof.Machine
end

