-- ==== Sys2Proof/Machine/Tables.lean ====
section
/-!
DEFINITION. The ROM tables LOGIT, EXPT, GUMBEL, NORMAL and LNT (R120 to R124, R176), each word computed
from its defining formula in fixed point of `fx` fraction bits and rounded once to binary32, and the
evaluation rules over them.
-/

namespace Sys2Proof.Machine

/-- Fraction bits of the fixed-point evaluation: far beyond the relative accuracy R120 asks for. -/
abbrev fx : Nat := 256

/-- 2 · atanh(a / b) in fixed point, `0 ≤ a < b`, by its series with `n` terms. -/
def atanhSum (z z2 : Nat) : Nat → Nat → Nat
  | 0, _ => 0
  | n + 1, k => z / (2 * k + 1) + atanhSum (z * z2 / 2 ^ fx) z2 n (k + 1)

def atanh2 (a b : Nat) : Nat :=
  let z := a * 2 ^ fx / b
  2 * atanhSum z (z * z / 2 ^ fx) 100 0

/-- ln 2 in fixed point. -/
def ln2Fx : Nat := atanh2 1 3

/-- ln(a / b) in fixed point, for positive `a` and `b`. -/
def lnRat (a b : Nat) : Int :=
  let ln1 (n : Nat) : Nat :=
    let e := Nat.log2 n
    e * ln2Fx + atanh2 (n - 2 ^ e) (n + 2 ^ e)
  ((ln1 a : Nat) : Int) - ((ln1 b : Nat) : Int)

/-- Taylor sum of exp(−x), `x` small and in fixed point. -/
def expTaylor (x : Nat) : Nat → Nat → Nat → Int
  | 0, _, _ => 0
  | n + 1, k, t => (if k % 2 = 0 then (t : Int) else -(t : Int)) +
      expTaylor x n (k + 1) (t * x / 2 ^ fx / (k + 1))

def squareN (y : Nat) : Nat → Nat
  | 0 => y
  | n + 1 => squareN (y * y / 2 ^ fx) n

/-- exp(−x) in fixed point, `x ≥ 0` in fixed point: 12 squarings of exp(−x / 4096). -/
def expNegFx (x : Nat) : Nat :=
  squareN (expTaylor (x / 4096) 40 0 (2 ^ fx)).toNat 12

/-- arctan(1 / n) in fixed point. -/
def atanInv (n2 : Nat) : Nat → Nat → Nat → Int
  | 0, _, _ => 0
  | f + 1, k, t => (if k % 2 = 0 then ((t / (2 * k + 1) : Nat) : Int) else -((t / (2 * k + 1) : Nat) : Int)) +
      atanInv n2 f (k + 1) (t / n2)

/-- π in fixed point (Machin's formula). -/
def piFx : Nat :=
  (16 * atanInv 25 60 0 (2 ^ fx / 5) - 4 * atanInv 57121 40 0 (2 ^ fx / 239)).toNat

/-- sqrt(2π) in fixed point. -/
def sqrt2PiFx : Nat := isqrt (2 * piFx * 2 ^ fx)

/-- Σ z^(2n+1) / (1 · 3 · … · (2n+1)) in fixed point, `t` the current term. -/
def gaussSeries (z2 : Nat) : Nat → Nat → Nat → Nat
  | 0, _, _ => 0
  | f + 1, k, t => if t = 0 then 0 else t + gaussSeries z2 f (k + 1) (t * z2 / 2 ^ fx / (2 * k + 3))

/-- One Newton step for z with Φ(−z) = p, all in fixed point; the density is exp(−z²/2) / sqrt(2π). -/
def normalNewton (p : Nat) : Nat → Nat → Nat
  | 0, z => z
  | f + 1, z =>
    let z2 := z * z / 2 ^ fx
    let ex := expNegFx (z2 / 2)
    let body := ex * gaussSeries z2 400 0 z / sqrt2PiFx          -- Φ(z) − 1/2
    let tail : Int := ((2 ^ (fx - 1) : Nat) : Int) - (body : Int)
    let d := (tail - (p : Int)) * (sqrt2PiFx : Int) / (ex : Int)
    if d.natAbs ≤ 2 ^ 60 then z else normalNewton p f ((z : Int) + d).toNat

/-- f(p) = −Φ⁻¹(p) for p = v / 2^32 (R124), in fixed point. -/
def normalQuantile (v : Nat) (scale : Nat) : Nat := normalNewton (v * 2 ^ fx / 2 ^ scale) 60 0

/-- The binary32 code of a fixed-point value. -/
def fxToF32 (i : Int) : Nat := f32ofInt i (-(fx : Int))

/-! ### Table words -/

/-- g(v) = ln((2^24 − v) / v). -/
def logitG (v : Nat) : Nat := fxToF32 (lnRat (2 ^ 24 - v) v)
/-- H[n] of R121. -/
def logitHead (n : Nat) : Nat := logitG (max n 1)
/-- K[i] of R121; v_i is exact. -/
def logitKnot (i : Nat) : Nat :=
  if i = 2048 then 0 else logitG ((128 + i % 128) * 2 ^ (i / 128))
/-- E[j] of R122. -/
def exptE (j : Nat) : Nat := fxToF32 (expNegFx (j * 2 ^ fx / 128))
/-- −ln(−ln(a / b)) in fixed point. -/
def gumbelFx (a b : Nat) : Int :=
  -(lnRat (-(lnRat a b)).toNat (2 ^ fx))
/-- G_lo(n) of R123, at n. -/
def gumbelLo (n : Nat) : Nat := fxToF32 (gumbelFx (2 * n + 1) (2 ^ 25))
/-- G_hi(m) of R123, at m. -/
def gumbelHi (m : Nat) : Nat := fxToF32 (gumbelFx (2 ^ 25 - (2 * m + 1)) (2 ^ 25))
/-- The argument of knot i of a GUMBEL half. -/
def gumbelKnotArg (i : Nat) : Nat := (32 + i % 32) * 2 ^ (i / 32 + 2)

/-- The three words of NORMAL segment i (R124). The interval's ends and midpoint are rationals over
2^7 or less, carried as integers times 2^8. -/
def normalSegment (i : Nat) : Nat × Nat × Nat :=
  let e := if i < 3840 then i / 128 else 30
  let k := if i < 3840 then i % 128 else i - 3840
  let d := if i < 3840 then 128 else 256
  -- x0 = 2^e (1 + k/d); scaled by 2·d
  let x0 := 2 ^ e * 2 * (d + k)
  let x1 := 2 ^ e * 2 * (d + k + 1)
  let xm := 2 ^ e * (2 * (d + k) + 1)
  let sc := 32 + 1 + (if i < 3840 then 7 else 8)
  let q (x : Nat) : Int := if x = 2 ^ (sc - 1) then 0 else ((normalQuantile x sc : Nat) : Int)
  let y0 := q x0
  let ym := q xm
  let y1 := q x1
  (fxToF32 y0, fxToF32 (4 * ym - 3 * y0 - y1), fxToF32 (2 * y0 + 2 * y1 - 4 * ym))

/-- LNT[i] of R176. -/
def lntWord (i : Nat) : Nat := fxToF32 (lnRat (1024 + i) 1024)
/-- LN2 of R176. -/
def ln2F32 : Nat := fxToF32 (ln2Fx : Int)
/-- Λmax, the binary32 value nearest ln(2^24 − 1) (chapter 3). -/
def lambdaMax : Nat := logitG 1
/-- A0, the binary32 value nearest 25 ln 2. -/
def a0F32 : Nat := fxToF32 (25 * (ln2Fx : Int))

/-- A word of a ROM table by the layout of R120; none beyond the table. -/
def tableWord (table idx : Nat) : Option Nat :=
  match table with
  | 0 => if idx < 128 then some (logitHead idx) else if idx < 2177 then some (logitKnot (idx - 128)) else none
  | 1 => if idx < 2219 then some (exptE idx) else none
  | 2 =>
    if idx < 128 then some (gumbelLo idx)
    else if idx < 641 then some (gumbelLo (gumbelKnotArg (idx - 128)))
    else if idx < 769 then some (gumbelHi (idx - 641))
    else if idx < 1282 then some (gumbelHi (gumbelKnotArg (idx - 769)))
    else none
  | 3 =>
    if idx < 12288 then
      let s := normalSegment (idx / 3)
      some (if idx % 3 = 0 then s.1 else if idx % 3 = 1 then s.2.1 else s.2.2)
    else none
  | _ => none

/-! ### Evaluation -/

/-- LOGIT (R121). -/
def logit (u24 : Nat) : Nat :=
  let pos := decide (2 ^ 23 ≤ u24)
  let v := if pos then 2 ^ 24 - u24 else u24
  let m :=
    if v < 128 then logitHead v
    else if v = 2 ^ 23 then 0
    else
      let e := Nat.log2 v
      let s := e - 7
      let k := v / 2 ^ s - 128
      let f := v - (k + 128) * 2 ^ s
      let phi := f32ofInt f (-(s : Int))
      let i := 128 * (e - 7) + k
      let d := f32sub (logitKnot (i + 1)) (logitKnot i)
      f32add (logitKnot i) (f32mul phi d)
  if pos then m else f32neg m

/-- EXPT (R122): an integer from 0 to 2^24. -/
def expt (a : Nat) : Nat :=
  let v := f32 a
  if v.isNan || (f32 a0F32).le v then 0
  else if v.le .zero then 2 ^ 24
  else
    let s := f32mul a (f32ofInt 128)
    let j := (f32 s).floor.toNat
    let phi := f32sub s (f32ofInt j)
    let d := f32mul phi (f32ofInt 1 (-7))
    let q := f32mul d (f32ofInt 1 (-1))
    let w := f32sub f32one q
    let r := f32mul d w
    let p := f32sub f32one r
    let y := f32mul (exptE j) p
    let t := ((f32 (f32mul y (f32ofInt 1 24))).toFixed 64 0).1
    (clampInt 1 (2 ^ 24) t).toNat

/-- GUMBEL (R123). -/
def gumbel (u24 : Nat) : Nat :=
  let low := decide (u24 < 2 ^ 23)
  let n := if low then u24 else 2 ^ 24 - 1 - u24
  let g := fun m => if low then gumbelLo m else gumbelHi m
  if n < 128 then g n
  else
    let e := Nat.log2 n
    let s := e - 5
    let k := n / 2 ^ s - 32
    let f := n - (k + 32) * 2 ^ s
    let phi := f32ofInt f (-(s : Int))
    let i := 32 * (e - 7) + k
    let k0 := g (gumbelKnotArg i)
    let k1 := g (gumbelKnotArg (i + 1))
    f32add k0 (f32mul phi (f32sub k1 k0))

/-- NORMAL (R124). -/
def normal (u32 : Nat) : Nat :=
  let pos := decide (2 ^ 31 ≤ u32)
  let v := if pos then 2 ^ 32 - u32 else u32 + 1
  let mag :=
    if v = 2 ^ 31 then 0
    else
      let e := Nat.log2 v
      let k := if e < 7 then (v - 2 ^ e) * 2 ^ (7 - e)
               else if e ≤ 29 then v / 2 ^ (e - 7) - 128 else v / 2 ^ 22 - 256
      let phi := if e < 7 then 0
                 else if e ≤ 29 then f32ofInt ((v - (k + 128) * 2 ^ (e - 7) : Nat) : Int) (-((e - 7 : Nat) : Int))
                 else f32ofInt ((v - (k + 256) * 2 ^ 22 : Nat) : Int) (-22)
      let i := if e ≤ 29 then 128 * e + k else 3840 + k
      let seg := normalSegment i
      let t1 := f32mul phi seg.2.2
      let t2 := f32add seg.2.1 t1
      let t3 := f32mul phi t2
      f32add seg.1 t3
  if pos then mag else f32neg mag

/-- VLN on one binary32 code (R176), with its `sat` indication. -/
def lnF32 (a : Nat) : Nat × Bool :=
  match f32 a with
  | .nan => (fp32.nanCode, true)
  | .inf s => if s then (fp32.nanCode, true) else (0x7F800000, false)
  | .fin s m e =>
    if m = 0 then (0xFF800000, false)
    else if s then (fp32.nanCode, true)
    else
      let l := Nat.log2 m
      let n := m * 2 ^ (23 - l)
      let ex : Int := e + (l : Int)
      let k := (n - 2 ^ 23) / 2 ^ 13
      let phi := f32ofInt ((n % 2 ^ 13 : Nat) : Int) (-13)
      let d := f32sub (lntWord (k + 1)) (lntWord k)
      let r := f32add (lntWord k) (f32mul phi d)
      (f32add (f32mul (f32ofInt ex) ln2F32) r, false)

end Sys2Proof.Machine
end

