-- ==== Sys2Proof/Machine/Gen.lean ====
section
/-!
DEFINITION. The stateless generator (R112) and the inputs of its draws (R116).
-/

namespace Sys2Proof.Machine

def rotl64 (x : DWord) (k : Nat) : DWord := x <<< k ||| x >>> (64 - k)

/-- mix of R112. -/
def mix (z0 : DWord) : DWord :=
  let z1 := (z0 ^^^ z0 >>> 30) * 0xBF58476D1CE4E5B9#64
  let z2 := (z1 ^^^ z1 >>> 27) * 0x94D049BB133111EB#64
  z2 ^^^ z2 >>> 31

/-- The draw x of R112 from seed, stream number, position, step and data. -/
def draw (seed n p t d : Nat) : DWord :=
  let s : DWord := BitVec.ofNat 64 seed
  let w1 : DWord := BitVec.ofNat 64 ((p % 2 ^ 32) * 2 ^ 32 + (d % 2 ^ 16) * 2 ^ 16 + n % 2 ^ 16)
  let x := mix (s ^^^ w1)
  let x := mix (x ^^^ BitVec.ofNat 64 (t % 2 ^ 48))
  mix (x ^^^ rotl64 s 29)

def u24of (x : DWord) : Nat := (x >>> 40).toNat
def u32of (x : DWord) : Nat := (x >>> 32).toNat

/-- Stream number from replica field and purpose (R112). -/
def stream (r purpose : Nat) : Nat := (r % 512) * 128 + purpose % 128

/-- Result of one probe evaluation (R129): x and result, or none where the operands set `bad`. -/
def probeEval (seed stream pos step data arg fn useArg table : Nat) : Option (DWord × Nat) :=
  let x := draw seed stream pos step data
  let u24 := if useArg = 1 then arg else u24of x
  let bad24 := decide (useArg = 1 ∧ 2 ^ 24 ≤ arg)
  match fn with
  | 0 => some (x, u32of x)
  | 1 => if bad24 then none else some (x, logit u24)
  | 2 => some (x, expt arg)
  | 3 => if bad24 then none else some (x, gumbel u24)
  | 4 => some (x, normal (if useArg = 1 then arg else u32of x))
  | 5 => (tableWord table arg).map fun w => (x, w)
  | _ => none

end Sys2Proof.Machine
end

