-- ==== Sys2Proof/Machine/Tile.lean ====
section
/-!
DEFINITION. Sampling tiles in general mode: descriptors, neighbour lists and groups (R28 to R45), the update
rules (R53 to R63), walks and delta flits (R65 to R78).
-/

namespace Sys2Proof.Machine

/-! ### The tile's view of its stores -/

/-- What a tile's registers and the take's slate fix for a take. -/
structure TileCtx where
  p : Port
  s : Nat
  l : Nat
  reps : Nat
  colours : Nat
  inter : Bool
  deep : Bool
  deepBase : Nat
  fmt : Nat
  groups : Nat
  vars : Nat
  stores : List Nat        -- local addresses of the seven stores, in the order of R47
  betaOff : Nat
  t0 : Nat
  seed : Nat
  tiles : Nat

/-- Local address of store `i` (R47): STORE_DESC to STORE_ACT. -/
def Dev.storeAddr (d : Dev) (s i : Nat) : Nat := tileSram s + 64 * d.rd (.tile s) (0x110 + 4 * i) 6

def Dev.tileCtx (d : Dev) (p : Port) (s : Nat) : TileCtx :=
  let pg := Page.tile s
  let cs := (d.take p).cs
  { p := p, s := s, l := d.rd pg 0x108 0, reps := d.rd pg 0x10C 0, colours := d.rd pg 0x10C 10 + 1,
    inter := d.rdBool pg 0x10C 16, deep := d.rdBool pg 0x100 1,
    deepBase := 64 * d.rd pg 0x134 6 + 2 ^ 32 * d.rd pg 0x138 0,
    fmt := d.rd pg 0x12C 0, groups := d.rd pg 0x12C 3, vars := d.rd pg 0x12C 16,
    stores := (List.range 7).map (d.storeAddr s), betaOff := d.rd pg 0x130 0,
    t0 := cs.stepOrigin, seed := cs.seed, tiles := cs.tiles }

/-- Context of another logical tile of the same take. -/
def TileCtx.other (c : TileCtx) (d : Dev) (l : Nat) : Option TileCtx :=
  (d.siteOf c.p l).map (d.tileCtx c.p)

def TileCtx.pg (c : TileCtx) : Page := .tile c.s
def TileCtx.store (c : TileCtx) (i : Nat) : Nat := c.stores.getD i 0

/-- Word `w` of the parameter store. -/
def TileCtx.param (c : TileCtx) (d : Dev) (w : Nat) : Nat := d.ld (c.store 4 + 4 * w) 4

/-- A variable descriptor (R32), with the bases its offsets count from (R49). -/
structure Desc where
  raw : Nat
  start : Nat
  len : Nat
  fieldOff : Nat
  kind : Nat
  q : Nat
  gate : Bool
  clamp : Bool
  colour : Nat
  bias : Nat
  variance : Nat
  listBase : Nat
  fieldBase : Nat
  stateBase : Nat
  biasBase : Nat
  slot0 : Nat
  page : Nat

/-- Bytes between deep-mode descriptor pages: a 16-byte header and 512 descriptors (R49). -/
abbrev deepStride : Nat := 16 + 512 * 16

def TileCtx.desc (c : TileCtx) (d : Dev) (v : Nat) : Desc :=
  let pgNo := if c.deep then v / 512 else 0
  let hdrAddr := c.deepBase + pgNo * deepStride
  let addr := if c.deep then hdrAddr + 16 + 16 * (v % 512) else c.store 0 + 16 * v
  let hdr := if c.deep then d.ld hdrAddr 16 else 0
  let w := d.ld addr 16
  let kind := bits w 50 2
  { raw := w, start := bits w 0 18, len := bits w 18 11, fieldOff := bits w 32 18, kind := kind,
    q := if kind = 1 then bits w 52 4 + 1 else 1, gate := bit w 56, clamp := bit w 57,
    colour := bits w 58 6, bias := bits w 64 32, variance := bits w 96 32,
    listBase := if c.deep then bits hdr 0 40 else c.store 3,
    fieldBase := if c.deep then bits hdr 40 40 else c.store 1,
    stateBase := if c.deep then bits hdr 80 40 else c.store 2,
    biasBase := if c.deep then bits hdr 40 40 else c.store 4,
    slot0 := (if c.deep then v % 512 else v) * c.reps, page := pgNo }

/-- Address of the field word of slot `k` in replica `r`. -/
def Desc.fieldAddr (e : Desc) (r k : Nat) : Nat := e.fieldBase + 4 * (e.fieldOff + r * e.q + k)
/-- Its sub-bank (R69). -/
def Desc.subBank (e : Desc) (r k : Nat) : Nat := (e.fieldOff + r * e.q + k) % 128
/-- Coupling-store entry `i`. -/
def Desc.entry (e : Desc) (d : Dev) (i : Nat) : Nat := d.ld (e.listBase + 8 * i) 8
/-- Bias of slot `k`, an FX32 word. -/
def Desc.biasWord (e : Desc) (d : Dev) (k : Nat) : Nat :=
  if e.kind = 1 then d.ld (e.biasBase + 4 * (e.bias % 2 ^ 16 + k)) 4 else e.bias

def stateWidth (fmt : Nat) : Nat := if fmt = 0 then 1 else if fmt = 1 then 4 else 32

/-- State of a variable-replica (R29). -/
def TileCtx.state (c : TileCtx) (d : Dev) (e : Desc) (r : Nat) : Nat :=
  d.elem e.stateBase (stateWidth c.fmt) (e.slot0 + r)

def TileCtx.setState (c : TileCtx) (d : Dev) (e : Desc) (r x : Nat) : Dev :=
  d.putElem e.stateBase (stateWidth c.fmt) (e.slot0 + r) x

/-- The active colour of replica r at step t (R54). -/
def TileCtx.active (c : TileCtx) (t r : Nat) : Nat :=
  (((t : Int) - (c.t0 : Int) + (if c.inter then ((r % c.colours : Nat) : Int) else 0)) % (c.colours : Int)).toNat

/-- Logical tile and local index of a global index; none unless exactly one range holds it (R31). -/
def TileCtx.place (c : TileCtx) (d : Dev) (g : Nat) : Option (Nat × Nat) :=
  let hits := (List.range 128).filter fun l =>
    let f := d.rd c.pg (0x400 + 8 * l) 0
    f ≤ g && g < f + d.rd c.pg (0x404 + 8 * l) 0
  match hits with
  | [l] => some (l, g - d.rd c.pg (0x400 + 8 * l) 0)
  | _ => none

/-- First global index of the tile. -/
def TileCtx.first (c : TileCtx) (d : Dev) : Nat := d.rd c.pg (0x400 + 8 * c.l) 0

/-! ### Checks of a descriptor (R28, R29, R32, R33) -/

/-- A positive, normal, finite binary32 value. -/
def goodVariance (v : Nat) : Bool := !bit v 31 && bits v 23 8 != 0 && bits v 23 8 != 255

/-- Fault code and detail of a bad descriptor, if it is one. -/
def TileCtx.checkDesc (c : TileCtx) (e : Desc) (v : Nat) : Option (Nat × Nat) :=
  let res : Option (Nat × Nat) := some (0x10, 4 * v)
  if bits e.raw 29 3 != 0 || e.len > 1024 || e.kind = 3 || (!c.deep && 2 ^ 18 < e.start + e.len) then res
  else if (c.fmt = 0 && e.kind != 0) || (c.fmt = 1 && e.kind = 2) || (c.fmt = 2 && e.kind != 2) then
    some (0x11, v)
  else if e.kind = 1 && bits e.raw 52 4 = 0 then res
  else if e.kind != 1 && bits e.raw 52 4 != 0 then res
  else if e.kind = 1 && bits e.raw 80 16 != 0 then res
  else if e.kind = 2 && e.gate then res
  else if e.kind != 2 && e.variance != 0 then res
  else if e.kind = 2 && !goodVariance e.variance then some (0x12, v)
  else none

/-- A STATE4 state out of range (R33). -/
def TileCtx.badState (c : TileCtx) (e : Desc) (x : Nat) : Bool :=
  c.fmt = 1 && ((e.kind = 1 && e.q ≤ x) || (e.kind = 0 && 2 ≤ x))

/-! ### Contributions (R34 to R37) -/

/-- The fields of a neighbour entry. -/
structure Ent where
  idx : Nat
  raw : Nat
  grp : Option Nat         -- the group of the run it stands in

def Ent.target (e : Ent) : Nat := bits e.raw 0 28
def Ent.weight (e : Ent) : Int := toSigned 16 (bits e.raw 32 16)
def Ent.mode (e : Ent) : Nat := bits e.raw 60 4
def Ent.a (e : Ent) : Nat := bits e.raw 56 4
def Ent.b (e : Ent) : Nat := bits e.raw 52 4
def Ent.mult (e : Ent) : Int := ((4 ^ bits e.raw 48 2 : Nat) : Int)

/-- Reduce to a signed FX32 value. -/
def wrap32 (i : Int) : Int := toSigned 32 (ofSigned 32 i)

/-- FX32 integer of a binary32 code: round to nearest even with saturation (R36, R40). -/
def fx32OfF32 (x : Nat) : Int := ((f32 x).toFixed 32 16).1

/-- Target slot and contribution of an entry for a source in state `x` (R35). -/
def Ent.contrib (e : Ent) (x : Nat) : Nat × Int :=
  let w := e.mult * e.weight
  match e.mode with
  | 0 => (e.a, 16 * w * (if x % 2 = 1 then 1 else -1))
  | 1 => (x, 16 * w)
  | 2 => (e.a, if x = e.b then 16 * w else 0)
  | 3 => (e.a, wrap32 (rneInt (w * fx32OfF32 x) 12))
  | 4 => (e.a, 16 * w)
  | _ => (e.a, 0)

/-- The deltas of a change of state: slot and FX32 value, zero deltas left out (R37). -/
def Ent.deltas (e : Ent) (old new : Nat) : List (Nat × Int) :=
  let a := e.contrib old
  let b := e.contrib new
  let l := if e.mode = 1 && a.1 != b.1 then [(a.1, -a.2), (b.1, b.2)] else [(a.1, wrap32 (b.2 - a.2))]
  l.filter fun x => x.2 != 0

/-- The entries of a list in order, without GROUP headers, each with the group of its run (R41); and the
coupling-store index of a malformed header or run. A run length of 0 counts as a malformed header (log 192). -/
def parseList (rd : Nat → Nat) (deep : Bool) (groups : Nat) : Nat → Nat → Nat → Option Nat → List Ent × Option Nat
  | 0, i, run, _ => ([], if run = 0 then none else some i)
  | n + 1, i, run, g =>
    let w := rd i
    if bits w 60 4 = 15 then
      let grp := bits w 0 12
      let l := bits w 32 16
      if run != 0 || deep || groups ≤ grp || l = 0 || 1023 < l || n < l then ([], some i)
      else parseList rd deep groups n (i + 1) l (some grp)
    else
      let r := parseList rd deep groups n (i + 1) (run - 1) (if run ≤ 1 then none else g)
      (⟨i, w, if run = 0 then none else g⟩ :: r.1, r.2)

def TileCtx.list (c : TileCtx) (d : Dev) (e : Desc) : List Ent × Option Nat :=
  parseList (e.entry d) c.deep c.groups e.len e.start 0 none

/-- Slots of a variable's field. -/
def Desc.slots (e : Desc) : Nat := e.q

/-- Values of `b` a source of kind and q admits (R35): its states; 0 only for a Gaussian unit, which has no numbered
states (DEDUCED, log 192). -/
def Desc.admitsB (e : Desc) (b : Nat) : Bool :=
  if e.kind = 1 then decide (b < e.q) else if e.kind = 0 then decide (b < 2) else b == 0

/-- Fault code and detail of a bad entry of source `e` (R33 to R35). The target's descriptor is that of its tile; a
target on another device is checked where it arrives (log 51). -/
def TileCtx.checkEnt (c : TileCtx) (d : Dev) (e : Desc) (x : Ent) : Option (Nat × Nat) :=
  if bits x.raw 50 2 != 0 || bits x.raw 28 4 != 0 || (5 ≤ x.mode && x.mode ≤ 14) then some (0x10, 3 * 2 ^ 20 + 2 * x.idx)
  else
    let badKind := match x.mode with
      | 0 => e.kind != 0
      | 1 => e.kind != 1 || x.a != 0 || x.b != 0
      | 2 => e.kind == 2
      | 3 => e.kind != 2
      | _ => false
    if badKind || !e.admitsB x.b then some (0x16, x.idx)
    else
      match c.place d x.target with
      | none => some (0x13, x.idx)
      | some (l, v) =>
        match (if l = c.l then some c else if l < c.tiles then c.other d l else none) with
        | some o =>
          let te := o.desc d v
          if (if x.mode = 1 then te.kind != 1 || te.q != e.q else te.slots ≤ x.a) then some (0x16, x.idx)
          else none
        | none => none

/-- A GROUP header's own reserved bits (R41). -/
def badHeader (w : Nat) : Bool := bits w 12 20 != 0 || bits w 48 12 != 0

/-! ### Groups (R42, R43) -/

structure Grp where
  no : Nat
  raw : Nat

def Grp.gate (g : Grp) : Nat := bits g.raw 0 32
def Grp.state (g : Grp) : Nat := bits g.raw 32 4
def Grp.count (g : Grp) : Nat := bits g.raw 48 16
def Grp.off (g : Grp) : Nat := bits g.raw 64 16

def TileCtx.group (c : TileCtx) (d : Dev) (n : Nat) : Grp := ⟨n, d.ld (c.store 5 + 16 * n) 16⟩
def TileCtx.actBit (c : TileCtx) (d : Dev) (g r : Nat) : Bool := d.elem (c.store 6) 1 (g * c.reps + r) == 1
def TileCtx.setAct (c : TileCtx) (d : Dev) (g r : Nat) (b : Bool) : Dev :=
  d.putElem (c.store 6) 1 (g * c.reps + r) b.toNat

/-- Member `i` of a group: local index and index of its GROUP header. -/
def TileCtx.grpMember (c : TileCtx) (d : Dev) (g : Grp) (i : Nat) : Nat :=
  d.ld (c.store 4 + 4 * (g.off + 2 * i)) 8

/-- Fault code and detail of a bad group record. A gate index of 2^28 or above, which no variable has (R31), counts as a
reserved code: DESIGN CHOICE, log 192. -/
def TileCtx.checkGroup (c : TileCtx) (d : Dev) (g : Grp) : Option (Nat × Nat) :=
  if bits g.raw 36 12 != 0 || bits g.raw 80 48 != 0 || bits g.raw 28 4 != 0 then some (0x10, 5 * 2 ^ 20 + 4 * g.no)
  else if g.count = 0 || 32768 < g.count || g.off % 2 = 1 then some (0x17, g.no)
  else
    let ms := (List.range g.count).map fun i => (i, c.grpMember d g i)
    match ms.find? (fun m => bits m.2 15 17 != 0 || bits m.2 50 14 != 0) with
    | some m => some (0x10, 4 * 2 ^ 20 + g.off + 2 * m.1)
    | none =>
      let own := c.place d g.gate
      if ms.any (fun m => own == some (c.l, bits m.2 0 15)) then some (0x17, g.no) else none

/-- Is the entry active in the replica (R41)? -/
def TileCtx.isActive (c : TileCtx) (d : Dev) (x : Ent) (r : Nat) : Bool :=
  match x.grp with
  | none => true
  | some g => c.actBit d g r

/-! ### Applying and sending deltas -/

/-- How a delta is checked: outside a coloured step nothing is checked; SWEEP_SYNC counts coupled flips. -/
inductive DeltaMode where
  | plain                     -- FIELD_INIT
  | coloured (t : Nat)
  | sync
  deriving DecidableEq

/-- Bytes of a variable's field words. -/
def TileCtx.fieldSpan (c : TileCtx) (e : Desc) : Nat × Nat :=
  (e.fieldAddr 0 0, e.fieldAddr 0 0 + 4 * c.reps * e.q)

/-- Does the variable's field overlap another's: its words are undefined (R32)? -/
def TileCtx.overlapped (c : TileCtx) (d : Dev) (v : Nat) : Bool :=
  let x := c.fieldSpan (c.desc d v)
  (List.range c.vars).any fun u =>
    let y := c.fieldSpan (c.desc d u)
    u != v && y.1 < x.2 && x.1 < y.2

/-- Does the field word at an address belong to such a variable? -/
def TileCtx.openField (c : TileCtx) (d : Dev) (a : Nat) : Bool :=
  (List.range c.vars).any fun v =>
    let x := c.fieldSpan (c.desc d v)
    x.1 ≤ a && a < x.2 && c.overlapped d v

/-- Add an FX32 value into a field word, modulo 2^32, marking a wrap (R38, R39). A word of a variable whose field
overlaps another's stays undefined (R32). -/
def TileCtx.addField (c : TileCtx) (d : Dev) (a : Nat) (v : Int) : Dev :=
  let s := toSigned 32 (d.ld a 4) + v
  let d := if c.openField d a then d.undefine a 4 else d.st a 4 (ofSigned 32 s)
  if s < -(2 ^ 31 : Int) || (2 ^ 31 : Int) - 1 < s then d.wr c.pg 0x104 2 1 else d

/-- The member that runs the tile's script, by page. -/
def Take.memberOf (t : Take) (pg : Page) : Option Member := t.members.find? fun m => m.page == pg
def Take.memberIdx (t : Take) (pg : Page) : Option Nat := t.members.findIdx? fun m => m.page == pg

/-- Changes of the step in progress on a tile. -/
def Dev.flipsOf (d : Dev) (p : Port) (pg : Page) : List Flip :=
  match (d.take p).memberOf pg with
  | some m => match m.sweep with
    | some s => s.flips
    | none => []
  | none => []

/-- Apply one field delta to a local variable (R38, R73, R78). -/
def TileCtx.apply (c : TileCtx) (d : Dev) (mode : DeltaMode) (v r k : Nat) (x : Int) : Dev :=
  let e := c.desc d v
  let d := match mode with
    | .coloured t => if e.colour = c.active t r then d.raise c.p c.pg 0x02 (v % 2 ^ 15 + r * 2 ^ 15) else d
    | .sync => if (d.flipsOf c.p c.pg).any (fun f => f.v == v && f.r == r) then d.bump c.pg 0x058 1 else d
    | .plain => d
  c.addField d (e.fieldAddr r k) x

/-- A delta flit (R72). -/
def deltaFlit (value target slot r ty dst src step colour : Nat) : Nat :=
  value % 2 ^ 32 + (target % 2 ^ 28) * 2 ^ 32 + (slot % 16) * 2 ^ 60 + (r % 512) * 2 ^ 64 + (ty % 4) * 2 ^ 73
    + (dst % 256) * 2 ^ 80 + (src % 256) * 2 ^ 88 + (step % 2 ^ 16) * 2 ^ 96 + (colour % 64) * 2 ^ 112

/-- An empty position of a delta-channel flit (R72). -/
abbrev emptyItem : Nat := 3 * 2 ^ 73

/-- The eight positions of a delta-channel flit, the last ones empty (R70, R248). -/
def packItems (xs : List Nat) : Nat := packWords 128 (xs ++ List.replicate (8 - xs.length) emptyItem)

/-- Send items outward through the mesh, eight positions to a flit: their destination is a range of another device
(R307). The spec gives the flit no destination node, since the slot tables route it: a free value (log 193). -/
def TileCtx.sendOut (c : TileCtx) (d : Dev) (xs : List Nat) : Dev :=
  let me := nodeId (siteCol c.s) (siteRow c.s)
  (chunks 8 xs.length xs).foldl (fun d ys =>
    let (n, d) := d.fresh
    d.emit (.inject me 1 (packItems ys) (sideband 1 n me (packItems ys)))) d

/-- Send items, each with its destination, to other tiles of the device, and outward those for ranges of other devices;
`init` marks items of FIELD_INIT. -/
def TileCtx.send (c : TileCtx) (d : Dev) (init : Bool) (xs : List (Nat × Nat)) : Dev :=
  let near := xs.filter fun x => x.1 < c.tiles
  let far := xs.filter fun x => !decide (x.1 < c.tiles)
  let d := d.modTake c.p fun t => { t with flits := t.flits ++ near.map fun x => ⟨c.l, x.1, x.2, init⟩ }
  ((far.map (·.1)).eraseDups).foldl (fun d l => c.sendOut d ((far.filter fun x => x.1 == l).map (·.2))) d

/-- Step field of emitted flits. -/
def stepLo (mode : DeltaMode) (t : Nat) : Nat := match mode with
  | .plain => 0xFFFF
  | _ => t % 2 ^ 16

/-- One delta produced by a walk: where it comes from and where it goes. -/
structure WalkDelta where
  group : Nat
  idx : Nat
  tile : Nat
  v : Nat
  target : Nat
  r : Nat
  k : Nat
  x : Int
  colour : Nat
  sub : Nat

/-- Apply or send the deltas of a walk; of two local deltas of one walk group and replica in one sub-bank the
later is dropped, a bank collision (R19, R68, R69). DELTA_OUT_CNT and DELTA_IN_CNT count field deltas only (log 185). -/
def TileCtx.deliver (c : TileCtx) (mode : DeltaMode) (t : Nat) (d : Dev) (ds : List WalkDelta) : Dev :=
  let local? := ds.filter fun x => x.tile == c.l
  let away := ds.filter fun x => x.tile != c.l
  let d := local?.foldl (fun d x =>
    if local?.any (fun y => y.group == x.group && y.r == x.r && y.sub == x.sub && y.idx < x.idx)
    then d.raise c.p c.pg 0x01 (2 ^ 20 + x.sub)
    else (c.apply d mode x.v x.r x.k x.x).bump c.pg 0x060 1) d
  c.send (d.bump c.pg 0x068 away.length) (mode == .plain) (away.map fun x =>
    (x.tile, deltaFlit (ofSigned 32 x.x) x.target x.k x.r 0 x.tile c.l (stepLo mode t) x.colour))

/-- The deltas of entry `x` of variable `e` in replica `r`, given as slots and values: those of a change of
state, or the contributions of FIELD_INIT and of gate runs. An entry whose target resolves nowhere (R31), or whose
slot a local target does not have (R35), is a model fault and takes none: DESIGN CHOICE, log 51. -/
def TileCtx.walkEnt (c : TileCtx) (d : Dev) (e : Desc) (r : Nat) (ds : List (Nat × Int)) (x : Ent) :
    List WalkDelta :=
  match c.place d x.target with
  | none => []
  | some (l, v) =>
    let te := c.desc d v
    let mk (s : Nat × Int) (sub : Nat) : WalkDelta :=
      ⟨e.page * 2 ^ 20 + x.idx / 128, x.idx, l, v, x.target, r, s.1, s.2, e.colour, sub⟩
    if l = c.l then (ds.filter fun s => s.1 < te.slots).map fun s => mk s (te.subBank r s.1)
    else ds.map fun s => mk s 0

/-- Contribution of an entry, or its negative, as a slot and value. -/
def Ent.present (x : Ent) (s : Nat) (sign : Int) : List (Nat × Int) :=
  let y := x.contrib s
  [(y.1, wrap32 (sign * y.2))]

/-- Raise a fault if there is one. -/
def TileCtx.faultIf (c : TileCtx) (d : Dev) (f : Option (Nat × Nat)) : Dev :=
  match f with
  | some (code, detail) => d.raise c.p c.pg code detail
  | none => d

/-- The walk groups a variable's list touches. -/
def Desc.groups (e : Desc) : List Nat :=
  if e.len = 0 then []
  else (List.range ((e.start + e.len - 1) / 128 - e.start / 128 + 1)).map fun i =>
    e.page * 2 ^ 20 + e.start / 128 + i

/-- Union of lists of numbers. -/
def unionNat (ls : List (List Nat)) : List Nat :=
  ls.foldl (fun acc l => l.foldl (fun acc x => if acc.contains x then acc else acc ++ [x]) acc) []

/-- A walk group holding entries of variables of two colours (R68). -/
def mixedGroup (ds : List Desc) (g : Nat) : Bool :=
  match (ds.filter fun e => e.groups.contains g).map (·.colour) with
  | [] => false
  | x :: xs => xs.any (· != x)

/-- The variables whose lists a step walks in replica r (R68, R76): early-clap those that changed, every Gaussian update
among them (R62); fixed-frame those of the colour. -/
def TileCtx.walked (c : TileCtx) (d : Dev) (coloured early : Bool) (t r : Nat) (flips : List Flip) : List Nat :=
  (List.range c.vars).filter fun v =>
    let e := c.desc d v
    let due := !coloured || e.colour == c.active t r
    if early then flips.any (fun f => f.v == v && f.r == r) || (e.kind == 2 && !e.clamp && due) else due

/-- Raise MODEL_WALK for every group of a coloured walk that mixes colours (R68). -/
def TileCtx.checkWalk (c : TileCtx) (d : Dev) (groups : List Nat) : Dev :=
  let ds := (List.range c.vars).map (c.desc d)
  (groups.filter (mixedGroup ds)).foldl (fun d g => d.raise c.p c.pg 0x18 g) d

/-- Count the walk groups walked in a step for each replica, and check their colours (R68, R76). -/
def TileCtx.countGroups (c : TileCtx) (d : Dev) (coloured early : Bool) (t : Nat) (flips : List Flip) : Dev :=
  forN c.reps (fun r d =>
    let groups := unionNat ((c.walked d coloured early t r flips).map fun v => (c.desc d v).groups)
    let d := d.bump c.pg 0x078 groups.length
    if coloured then c.checkWalk d groups else d) d

/-- The checks of a descriptor that the tile reads, and of the variable's state in some replicas (R29, R32, R33, R66). -/
def TileCtx.checkVar (c : TileCtx) (v : Nat) (rs : List Nat) (d : Dev) : Dev :=
  let e := c.desc d v
  rs.foldl (fun d r => if c.badState e (c.state d e r) then d.raise c.p c.pg 0x11 v else d)
    (c.faultIf d (c.checkDesc e v))

/-- The checks of a neighbour list that the tile walks (R33 to R35, R41, R44, R66). -/
def TileCtx.checkList (c : TileCtx) (v : Nat) (d : Dev) : Dev :=
  let e := c.desc d v
  let l := c.list d e
  let d := match l.2 with
    | some i => d.raise c.p c.pg 0x17 (2 ^ 23 + i)
    | none => d
  let d := forN e.len (fun i d =>
    let w := e.entry d (e.start + i)
    if bits w 60 4 = 15 && badHeader w then d.raise c.p c.pg 0x10 (3 * 2 ^ 20 + 2 * (e.start + i)) else d) d
  l.1.foldl (fun d x =>
    let d := c.faultIf d (c.checkEnt d e x)
    match x.grp with
    | some g => if (c.group d g).gate = x.target then d.raise c.p c.pg 0x17 (2 ^ 23 + x.idx) else d
    | none => d) d

/-! ### Gate deltas (R43, R65, R73) -/

/-- A member run of a group (R41, R42): the member's local index, and the run's entries. -/
def TileCtx.memberRun (c : TileCtx) (d : Dev) (g : Grp) (i : Nat) : Nat × List Ent :=
  let mem := c.grpMember d g i
  let e := c.desc d (bits mem 0 15)
  let hdr := bits mem 32 18
  (bits mem 0 15, ((c.list d e).1).filter fun x => x.grp == some g.no && hdr < x.idx
    && x.idx ≤ hdr + bits (e.entry d hdr) 32 16)

/-- Walk the member runs of the groups that a gate delta turned on or off in a replica (R43, R65), and check what the
tile reads; in a coloured step a gate delta of another step is a violation for each run delta (R73). `lo` is the gate
delta's step field. -/
def TileCtx.walkRuns (c : TileCtx) (mode : DeltaMode) (t lo : Nat) (d : Dev) (gs : List (Grp × Bool)) (r : Nat) : Dev :=
  let runs := gs.flatMap fun g => (List.range g.1.count).map fun i => (g, c.memberRun d g.1 i)
  let ds := runs.flatMap fun x =>
    let e := c.desc d x.2.1
    let s := c.state d e r
    x.2.2.flatMap fun y => c.walkEnt d e r ((y.present s (if x.1.2 then 1 else -1)).filter fun z => z.2 != 0) y
  let groups := unionNat (runs.map fun x => x.2.2.map fun y => (c.desc d x.2.1).page * 2 ^ 20 + y.idx / 128)
  let d := runs.foldl (fun d x =>
    let e := c.desc d x.2.1
    let d := match mode with
      | .coloured t => if e.colour = c.active t r then d.raise c.p c.pg 0x02 (x.2.1 + r * 2 ^ 15) else d
      | _ => d
    c.checkList x.2.1 (c.checkVar x.2.1 [r] d)) d
  let d := d.bump c.pg 0x078 groups.length
  let d := match mode with
    | .coloured t =>
      let d := c.checkWalk d groups
      if lo = t % 2 ^ 16 then d else ds.foldl (fun d _ => d.raise c.p c.pg 0x03 lo) d
    | _ => d
  c.deliver mode t d ds

/-- A gate delta reaches a tile: activity bits follow the gate's new state, and in a step the runs of every
group whose activity changed are walked. -/
def TileCtx.gateDelta (c : TileCtx) (mode : DeltaMode) (t lo : Nat) (d : Dev) (g r new : Nat) : Dev :=
  let changed := (List.range c.groups).filterMap fun i =>
    let grp := c.group d i
    let now := decide (grp.state = new)
    if grp.gate = g && c.actBit d i r != now then some (grp, now) else none
  let d := changed.foldl (fun d x => c.setAct d x.1.no r x.2) d
  if mode = .plain || changed.isEmpty then d
  else c.walkRuns mode t lo (changed.foldl (fun d x => c.faultIf d (c.checkGroup d x.1)) d) changed r

/-- Send a gate delta to every tile of GATE_FANOUT, the tile itself included (R65, R73). -/
def TileCtx.sendGate (c : TileCtx) (mode : DeltaMode) (t : Nat) (d : Dev) (v r old new colour : Nat) : Dev :=
  let g := c.first d + v
  let dsts := (List.range 128).filter fun i => bit (d.rd c.pg (0x150 + 4 * (i / 32)) 0) (i % 32)
  let d := c.send d (mode == .plain) ((dsts.filter (· != c.l)).map fun i =>
    (i, deltaFlit (old + 16 * new) g 0 r 1 i c.l (stepLo mode t) colour))
  if dsts.contains c.l then c.gateDelta mode t (stepLo mode t) d g r new else d

/-! ### Update rules (R56 to R63) -/

/-- Where a uniform comes from: purpose, replica, position and data give 64 bits of which a draw uses u24 or
u32. -/
abbrev Drawer := Nat → Nat → Nat → Nat → Dev → Nat × Dev

/-- The generator at step t (R57, R112). -/
def genDraw (seed t : Nat) : Drawer := fun purpose r g data d =>
  ((draw seed (stream r purpose) g t data).toNat, d)

/-- The take's DRBG instance (R192, R389): four bytes for each u24 or u32. Bytes drawn after the instance has
reached its reseed interval come after a reseed with samples not known yet: they are free values. -/
def drbgDraw (p : Port) : Drawer := fun _ _ _ _ d =>
  let k := 64 + p.idx
  let inst := tget {} d.ent.drbg k
  let (bs, inst') := drbgGenerate inst 4
  let ready := d.rd .entCell 0x110 (2 * p.idx) == 1
  let (n, d) := d.fresh
  let d := if !ready then d else { d with ent := { d.ent with drbg := tput d.ent.drbg k inst' } }
  let d := d.bump .entCell 0x050 4
  let d := d.modTake p fun t => { t with drbgBytes := t.drbgBytes + 4 }
  let d := if 2 ^ 16 < inst'.ctr then d.wr .entCell 0x110 (2 * p.idx) 2 else d
  (if ready then ofBytesBE bs.reverse * 2 ^ 32 else n, d)

def u24 (x : Nat) : Nat := x / 2 ^ 40
def u32 (x : Nat) : Nat := x / 2 ^ 32

/-- Outcome of an update: new state, whether a draw was skipped, whether a Gaussian draw saturated. -/
structure Upd where
  new : Nat
  cold : Bool := false
  sat : Bool := false

/-- FP32(h) of an FX32 word (R52). -/
def f32OfFx32 (h : Nat) : Nat := f32ofInt (toSigned 32 h) (-16)

/-- Heat-bath (R58). -/
def heatBath (dr : Drawer) (beta h r g : Nat) (d : Dev) : Upd × Dev :=
  let y := f32mul beta (f32OfFx32 h)
  let x := f32add y y
  if (f32 lambdaMax).lt (f32 x) then (⟨1, true, false⟩, d)
  else if (f32 x).lt (f32 (f32neg lambdaMax)) then (⟨0, true, false⟩, d)
  else
    let (u, d) := dr 0x00 r g (h % 2 ^ 16) d
    (⟨((f32 (logit (u24 u))).lt (f32 x)).toNat, false, false⟩, d)

/-- Metropolis for a spin (R59). -/
def metropolis (dr : Drawer) (beta h s r g : Nat) (d : Dev) : Upd × Dev :=
  let y := f32mul beta (f32OfFx32 h)
  let x := f32add y y
  let a := if s = 1 then x else f32neg x
  if (f32 a).le .zero then (⟨1 - s % 2, false, false⟩, d)
  else if (f32 a0F32).le (f32 a) then (⟨s, true, false⟩, d)
  else
    let (u, d) := dr 0x01 r g (h % 2 ^ 16) d
    (⟨if u24 u < expt a then 1 - s % 2 else s, false, false⟩, d)

/-- Metropolis with uniform proposal for a Potts variable (R60); `h k` is score slot k. -/
def pottsMetropolis (dr : Drawer) (beta q : Nat) (h : Nat → Nat) (s r g : Nat) (d : Dev) : Upd × Dev :=
  let data := h s % 2 ^ 16
  let (u, d) := dr 0x02 r g data d
  let k := u32 u * (q - 1) / 2 ^ 32
  let k := if s ≤ k then k + 1 else k
  let df := f32ofInt (toSigned 32 (h s) - toSigned 32 (h k)) (-16)
  let a := f32mul beta df
  if (f32 a).le .zero then (⟨k, false, false⟩, d)
  else if (f32 a0F32).le (f32 a) then (⟨s, true, false⟩, d)
  else
    let (u, d) := dr 0x01 r g data d
    (⟨if u24 u < expt a then k else s, false, false⟩, d)

/-- The lowest index of a largest score; a NaN never wins over a number. -/
def argMax : List Nat → Nat → Nat → Nat → Nat
  | [], _, best, _ => best
  | z :: zs, i, best, zb => if (f32 zb).lt (f32 z) then argMax zs (i + 1) i z else argMax zs (i + 1) best zb

/-- Categorical Gibbs (R61). -/
def categoricalGibbs (dr : Drawer) (beta q : Nat) (h : Nat → Nat) (r g : Nat) (d : Dev) : Upd × Dev :=
  let (zs, d) := (List.range q).foldl (fun (acc : List Nat × Dev) k =>
    let (u, d) := dr (0x40 + k) r g (h k % 2 ^ 16) acc.2
    (acc.1 ++ [f32add (f32mul beta (f32OfFx32 (h k))) (gumbel (u24 u))], d)) ([], d)
  (⟨match zs with
    | [] => 0
    | z :: rest => argMax rest 1 0 z, false, false⟩, d)

/-- Gaussian draw (R62). -/
def gaussianDraw (dr : Drawer) (beta v h r g : Nat) (d : Dev) : Upd × Dev :=
  let mu := f32mul v (f32OfFx32 h)
  let sd := f32sqrt (f32div v beta)
  let (u, d) := dr 0x03 r g (h % 2 ^ 16) d
  let x := f32add mu (f32mul sd (normal (u32 u)))
  match f32 x with
  | .inf s => (⟨if s then 0xFF7FFFFF else 0x7F7FFFFF, false, true⟩, d)
  | _ => (⟨x, false, false⟩, d)

/-- β of replica r (R56). -/
def TileCtx.beta (c : TileCtx) (d : Dev) (r : Nat) : Nat := c.param d (c.betaOff + r)

def badBeta (b : Nat) : Bool :=
  match f32 b with
  | .nan => true
  | .inf _ => true
  | .fin s m _ => s && m != 0

/-- Update one variable-replica (R54, R57 to R63): counters, the new state, and the change if there is one. -/
def TileCtx.update (c : TileCtx) (sw : Sweep) (dr : Drawer) (first v r : Nat) (d : Dev) : Option Flip × Dev :=
  let e := c.desc d v
  let g := first + v
  let beta := c.beta d r
  let s := c.state d e r
  let h := fun k => d.ld (e.fieldAddr r k) 4
  let (u, d) :=
    if e.kind = 0 then
      if sw.spinRule then metropolis dr beta (h 0) s r g d else heatBath dr beta (h 0) r g d
    else if e.kind = 1 then
      if sw.pottsRule then pottsMetropolis dr beta e.q h s r g d else categoricalGibbs dr beta e.q h r g d
    else gaussianDraw dr beta e.variance (h 0) r g d
  let d := d.bump c.pg 0x040 1
  let d := if u.cold then d.bump c.pg 0x050 1 else d
  let d := if u.sat then d.wr c.pg 0x104 3 1 else d
  if u.new = s then (none, d)
  else (some ⟨v, r, s, u.new⟩, (c.setState d e r u.new).bump c.pg 0x048 1)

/-- The pairs (variable, replica) a step updates: the unclamped variables of the active colour (R54), or all
unclamped variables (R77). -/
def TileCtx.updates (c : TileCtx) (d : Dev) (coloured : Bool) (t : Nat) : List (Nat × Nat) :=
  (List.range c.vars).flatMap fun v =>
    let e := c.desc d v
    if e.clamp then []
    else (List.range c.reps).filterMap fun r =>
      if !coloured || e.colour == c.active t r then some (v, r) else none

/-- Read the β table at the start of a step (R56). -/
def TileCtx.checkBeta (c : TileCtx) (d : Dev) (ups : List (Nat × Nat)) : Dev :=
  match (List.range c.reps).find? fun r =>
      badBeta (c.beta d r) ||
      ((f32 (c.beta d r)).eq .zero && ups.any fun u => u.2 == r && (c.desc d u.1).kind == 2) with
  | some r => d.raise c.p c.pg 0x14 r
  | none => d

/-- All updates of a step on a tile; the changes in issue order. What the tile reads is checked first (R33). -/
def TileCtx.updateAll (c : TileCtx) (sw : Sweep) (t : Nat) (d : Dev) : List Flip × Dev :=
  let coloured := sw.op != 0x42
  let ups := c.updates d coloured t
  let d := c.checkBeta d ups
  let dr := if sw.op = 0x46 then drbgDraw c.p else genDraw c.seed t
  let first := c.first d
  let d := (unionNat [ups.map (·.1)]).foldl (fun d v =>
    c.checkVar v ((ups.filter fun u => u.1 == v).map (·.2)) d) d
  ups.foldl (fun (acc : List Flip × Dev) u =>
    let (f, d) := c.update sw dr first u.1 u.2 acc.2
    (match f with | some f => acc.1 ++ [f] | none => acc.1, d)) ([], d)

/-- Walk the lists of the changed variables (R68), and send the gate deltas of changed gates (R43). -/
def TileCtx.walkFlips (c : TileCtx) (sw : Sweep) (t : Nat) (d : Dev) (flips : List Flip) : Dev :=
  let coloured := sw.op != 0x42
  let mode : DeltaMode := if coloured then .coloured t else .sync
  let d := c.countGroups d coloured sw.early t flips
  let d := (unionNat ((List.range c.reps).map fun r => c.walked d coloured sw.early t r flips)).foldl
    (fun d v => c.checkList v d) d
  let ds := flips.flatMap fun f =>
    let e := c.desc d f.v
    (c.list d e).1.flatMap fun x =>
      if c.isActive d x f.r then c.walkEnt d e f.r (x.deltas f.old f.new) x else []
  let d := c.deliver mode t d ds
  flips.foldl (fun d f =>
    let e := c.desc d f.v
    if e.gate then c.sendGate mode t d f.v f.r f.old f.new e.colour else d) d

end Sys2Proof.Machine
end

