-- ==== Sys2Proof/Machine/Lattice.lean ====
section
/-!
DEFINITION. Lattice mode: patches, coupling records, edge records, field build and energies (R84 to R98), the β
ramp (R103), the patch hash (R106) and the round notice at a tile (R102).
-/

namespace Sys2Proof.Machine

/-! ### Header and coupling records (R88, R89) -/

/-- The 64-byte lattice header at the coupling-store base. -/
def TileCtx.latHdr (c : TileCtx) (d : Dev) : Nat := d.ld (c.store 3) 64

def latCols (h : Nat) : Nat := bits h 0 5
def latWrapX (h : Nat) : Bool := bit h 5
def latWrapY (h : Nat) : Bool := bit h 6
def latRamp (h : Nat) : Bool := bit h 7
def latRampPoints (h : Nat) : Nat := bits h 16 11
def latRampOff (h : Nat) : Nat := bits h 32 16
def latFactorOff (h : Nat) : Nat := bits h 48 16
def latOrigin (h : Nat) : Nat := bits h 64 48
def latRungBetaOff (h : Nat) : Nat := bits h 112 16
def latRungmapOff (h : Nat) : Nat := bits h 128 16
def latPoolBase (h : Nat) : Nat := bits h 144 38
def latSlotStride (h : Nat) : Nat := bits h 192 16

/-- Spin v's coupling record. -/
def TileCtx.latRec (c : TileCtx) (d : Dev) (v : Nat) : Nat := d.ld (c.store 3 + 64 + 32 * v) 32

def recJ (w dir : Nat) : Int := toSigned 16 (bits w (16 * dir) 16)
def recShift (w dir : Nat) : Nat := bits w (144 + 2 * dir) 2
/-- The scaled coupling 16 · 4^shift · J. -/
def recBond (w dir : Nat) : Int := 16 * ((4 ^ recShift w dir : Nat) : Int) * recJ w dir
/-- The scaled bias 16 · 4^shift_b · B. -/
def recBias (w : Nat) : Int := 16 * ((4 ^ bits w 160 2 : Nat) : Int) * toSigned 16 (bits w 128 16)
def recClamp (w : Nat) : Bool := bit w 162
/-- Coupling-store index of spin v's record, in 8-byte units. -/
def recIndex (v : Nat) : Nat := 8 + 4 * v

/-! ### Geometry (R84 to R86) -/

/-- Lattice coordinates of local spin v of logical tile l. -/
def spinXY (l v : Nat) : Nat × Nat := (16 * (l / 8) + v % 16, 32 * (l % 8) + v / 16)

/-- Logical tile and local index of the spin at (x, y). -/
def spinAt (x y : Nat) : Nat × Nat := (8 * (x / 16) + y / 32, 16 * (y % 32) + x % 16)

/-- Steps of direction d: E, NE, N, NW, W, SW, S, SE. -/
def dirStep (dir : Nat) : Int × Int :=
  match dir with
  | 0 => (1, 0) | 1 => (1, -1) | 2 => (0, -1) | 3 => (-1, -1)
  | 4 => (-1, 0) | 5 => (-1, 1) | 6 => (0, 1) | _ => (1, 1)

/-- One coordinate moved, under a periodic or an open boundary. -/
def moveCoord (n : Nat) (wrap : Bool) (x : Nat) (dx : Int) : Option Nat :=
  let y := (x : Int) + dx
  if 0 ≤ y && y < (n : Int) then some y.toNat
  else if wrap then some (y % (n : Int)).toNat else none

/-- The neighbour of spin v of tile l in a direction: tile and local index, none beyond an open boundary. -/
def latNeighbour (h : Nat) (l v dir : Nat) : Option (Nat × Nat) :=
  let xy := spinXY l v
  let st := dirStep dir
  match moveCoord (16 * latCols h) (latWrapX h) xy.1 st.1, moveCoord 256 (latWrapY h) xy.2 st.2 with
  | some x, some y => some (spinAt x y)
  | _, _ => none

/-- The neighbouring tile in a direction. -/
def tileNeighbour (h : Nat) (l dir : Nat) : Option Nat :=
  let st := dirStep dir
  match moveCoord (latCols h) (latWrapX h) (l / 8) st.1, moveCoord 8 (latWrapY h) (l % 8) st.2 with
  | some j, some i => some (8 * j + i)
  | _, _ => none

/-- Colour of spin v (R86): patch sides are even, so the patch column and row decide. -/
def spinColour (v : Nat) : Nat := v % 16 % 2 + 2 * (v / 16 % 2)

/-! ### States, fields, energies -/

def TileCtx.latState (c : TileCtx) (d : Dev) (v r : Nat) : Nat := d.elem (c.store 2) 1 (v * c.reps + r)
def TileCtx.setLatState (c : TileCtx) (d : Dev) (v r x : Nat) : Dev := d.putElem (c.store 2) 1 (v * c.reps + r) x
def TileCtx.latFieldAddr (c : TileCtx) (v r : Nat) : Nat := c.store 1 + 4 * (v * c.reps + r)
def TileCtx.latField (c : TileCtx) (d : Dev) (v r : Nat) : Nat := d.ld (c.latFieldAddr v r) 4
def spinSign (x : Nat) : Int := if x % 2 = 1 then 1 else -1

def Dev.tile (d : Dev) (s : Nat) : TileSt := tget {} d.tiles s
def Dev.setTile (d : Dev) (s : Nat) (t : TileSt) : Dev := { d with tiles := tput d.tiles s t }

def int64 (i : Int) : Int := toSigned 64 (ofSigned 64 i)

/-- Add to the energy accumulator of a replica (R97). -/
def TileCtx.addEnergy (c : TileCtx) (d : Dev) (r : Nat) (x : Int) : Dev :=
  let t := d.tile c.s
  d.setTile c.s { t with energy := setAt t.energy r (int64 (t.energy.getD r 0 + x)) }

/-- State of spin (l', v') in replica r as tile c sees it. -/
def TileCtx.farState (c : TileCtx) (d : Dev) (l v r : Nat) : Nat :=
  if l = c.l then c.latState d v r
  else match c.other d l with
    | some o => o.latState d v r
    | none => 0

/-- The field of R90, with the couplings beyond an open boundary checked; R91's comparison of the two copies of
each bond. -/
def TileCtx.latCheck (c : TileCtx) (d : Dev) (h v : Nat) : Dev :=
  let w := c.latRec d v
  let d := if bits w 163 93 != 0 then d.raise c.p c.pg 0x10 (3 * 2 ^ 20 + 2 * recIndex v) else d
  forN 8 (fun dir d =>
    match latNeighbour h c.l v dir with
    | none => if recJ w dir != 0 then d.raise c.p c.pg 0x13 (recIndex v) else d
    | some (l, u) =>
      let w' := if l = c.l then some (c.latRec d u) else (c.other d l).map fun o => o.latRec d u
      match w' with
      | some w' =>
        let back := (dir + 4) % 8
        if recJ w dir != recJ w' back || recShift w dir != recShift w' back then
          d.raise c.p c.pg 0x16 (recIndex v)
        else d
      | none => d) d

def TileCtx.latBuildField (c : TileCtx) (d : Dev) (h v r : Nat) : Int :=
  let w := c.latRec d v
  (List.range 8).foldl (fun acc dir =>
    match latNeighbour h c.l v dir with
    | some (l, u) => acc + recBond w dir * spinSign (c.farState d l u r)
    | none => acc) (recBias w)

/-- Store a field, marking a sum outside the signed range (R39, R90). -/
def TileCtx.putField (c : TileCtx) (d : Dev) (a : Nat) (x : Int) : Dev :=
  let d := d.st a 4 (ofSigned 32 x)
  if x < -(2 ^ 31 : Int) || (2 ^ 31 : Int) - 1 < x then d.wr c.pg 0x104 2 1 else d

/-- The tile's share of the energy of replica r (R96). -/
def TileCtx.latShare (c : TileCtx) (d : Dev) (r : Nat) : Int :=
  (List.range 512).foldl (fun acc v =>
    let hh := toSigned 32 (c.latField d v r) + recBias (c.latRec d v)
    acc - spinSign (c.latState d v r) * hh / 2) 0

/-- Ramp table check (R103): first offset 0, offsets strictly ascending; index of the first offending point. -/
def TileCtx.rampBad (c : TileCtx) (d : Dev) (h : Nat) : Option Nat :=
  (List.range (latRampPoints h)).find? fun i =>
    let o := c.param d (latRampOff h + 2 * i)
    if i = 0 then o != 0 else o ≤ c.param d (latRampOff h + 2 * (i - 1))

/-- Add a list of energies to another, by replica, modulo 2^64 (R98). -/
def addEnergies (n : Nat) (xs ys : List Int) : List Int :=
  (List.range n).map fun r => int64 (xs.getD r 0 + ys.getD r 0)

/-- The tile's accumulators go to the ladder engine, or wait for it to be armed, and are cleared (R97, R98). -/
def TileCtx.sendEnergy (c : TileCtx) (d : Dev) : Dev :=
  let st := d.tile c.s
  (d.modTake c.p fun t => match t.ladder with
    | some l => { t with ladder := some { l with energies := addEnergies c.reps l.energies st.energy } }
    | none => { t with laden := addEnergies c.reps t.laden st.energy }).setTile c.s
      { st with energy := List.replicate c.reps 0 }

/-- Lattice FIELD_INIT on one tile (R91, R96, R97). -/
def TileCtx.latInit (c : TileCtx) (d : Dev) : Dev :=
  let h := c.latHdr d
  let d := if latRamp h then
      match c.rampBad d h with
      | some i => d.raise c.p c.pg 0x14 (2 ^ 23 + i)
      | none => d
    else d
  let d := forN 512 (fun v d => c.latCheck d h v) d
  let d := d.noteWrite c.p (c.store 1) (4 * 512 * c.reps)
  let d := forN 512 (fun v d =>
    forN c.reps (fun r d => c.putField d (c.latFieldAddr v r) (c.latBuildField d h v r)) d) d
  let d := d.setTile c.s { d.tile c.s with energy := (List.range c.reps).map (c.latShare d) }
  c.sendEnergy d

/-! ### The β ramp (R103) -/

/-- β of the last ramp point no later than t − o. -/
def TileCtx.rampB (c : TileCtx) (d : Dev) (h t : Nat) : Nat :=
  let n := t - latOrigin h
  match ((List.range (latRampPoints h)).filter fun i => c.param d (latRampOff h + 2 * i) ≤ n).getLast? with
  | some i => c.param d (latRampOff h + 2 * i + 1)
  | none => 0

def TileCtx.setBeta (c : TileCtx) (d : Dev) (r b : Nat) : Dev :=
  let a := c.store 4 + 4 * (c.betaOff + r)
  d.takeSt c.p a 4 b

/-- BETA_RAMP: at the start of every step, entry r becomes FP32(B × f_r). -/
def TileCtx.betaRamp (c : TileCtx) (d : Dev) (t : Nat) : Dev :=
  let h := c.latHdr d
  if latRamp h then
    let b := c.rampB d h t
    forN c.reps (fun r d => c.setBeta d r (f32mul b (c.param d (latFactorOff h + r)))) d
  else d

/-! ### Steps and edge records (R92 to R95) -/

/-- Add to a field of the tile's own spin. -/
def TileCtx.addLatField (c : TileCtx) (d : Dev) (v r : Nat) (x : Int) : Dev :=
  c.putField d (c.latFieldAddr v r) (toSigned 32 (c.latField d v r) + x)

/-- Spin (l, v) has become `s` in replica r: every spin of tile c coupled to it gains 32 · 4^shift · J · s. -/
def TileCtx.spread (c : TileCtx) (d : Dev) (h l v r : Nat) (s : Int) : Dev :=
  forN 8 (fun dir d =>
    match latNeighbour h l v dir with
    | some (l', u) =>
      if l' = c.l then c.addLatField d u r (2 * recBond (c.latRec d u) ((dir + 4) % 8) * s) else d
    | none => d) d

/-- The tile direction a step of direction `dir` from patch position v crosses into, (0, 0) within the patch. -/
def tileDisp (v dir : Nat) : Int × Int :=
  let st := dirStep dir
  let x := ((v % 16 : Nat) : Int) + st.1
  let y := ((v / 16 : Nat) : Int) + st.2
  (if x < 0 then -1 else if 15 < x then 1 else 0, if y < 0 then -1 else if 31 < y then 1 else 0)

/-- The same for the spins a record of tile direction `dd` names: only the steps that cross in that
direction. -/
def TileCtx.spreadDir (c : TileCtx) (d : Dev) (h l v r : Nat) (s : Int) (dd : Nat) : Dev :=
  forN 8 (fun dir d =>
    if tileDisp v dir = dirStep dd then
      match latNeighbour h l v dir with
      | some (l', u) =>
        if l' = c.l then c.addLatField d u r (2 * recBond (c.latRec d u) ((dir + 4) % 8) * s) else d
      | none => d
    else d) d

/-- Bit of the edge record that names patch position (row, col) for the k-th replica, when its colour is active
there (R94). -/
def edgeBit (dir k row col : Nat) : Nat :=
  if dir = 0 || dir = 4 then 16 * k + row / 2
  else if dir = 2 || dir = 6 then 8 * k + col / 2
  else k

/-- Does the edge facing direction `dir` hold patch position (row, col)? -/
def onEdge (dir row col : Nat) : Bool :=
  let st := dirStep dir
  (if st.1 = 1 then col == 15 else if st.1 = -1 then col == 0 else true) &&
  (if st.2 = 1 then row == 31 else if st.2 = -1 then row == 0 else true)

/-- The edge record of group b for a direction (R94). -/
def edgeRecord (flips : List Flip) (b dir dst src t c0 : Nat) : Nat :=
  let fl := flips.foldl (fun acc f =>
    let row := f.v / 16
    let col := f.v % 16
    if onEdge dir row col then acc ||| 2 ^ edgeBit dir (f.r - 4 * b) row col else acc) 0
  fl + (4 * b) * 2 ^ 64 + dir * 2 ^ 75 + dst * 2 ^ 80 + src * 2 ^ 88 + (t % 2 ^ 16) * 2 ^ 96 + c0 * 2 ^ 112

/-- Update one spin of a replica in a lattice step (R58, R59, R85, R97). -/
def TileCtx.latUpdate (c : TileCtx) (sw : Sweep) (dr : Drawer) (h : Nat) (v r : Nat) (d : Dev) : Option Flip × Dev :=
  let g := 512 * c.l + v
  let s := c.latState d v r
  let w := c.latField d v r
  let beta := sw.betas.getD r 0
  let (u, d) := if sw.spinRule then metropolis dr beta w s r g d else heatBath dr beta w r g d
  let d := d.bump c.pg 0x040 1
  let d := if u.cold then d.bump c.pg 0x050 1 else d
  if u.new = s then (none, d)
  else
    let d := c.addEnergy d r (2 * spinSign s * toSigned 32 w)
    let d := (c.setLatState d v r u.new).bump c.pg 0x048 1
    (some ⟨v, r, s, u.new⟩, c.spread d h c.l v r (spinSign u.new))

/-- Process group b in step t: updates of its four replicas, then one edge record to every neighbour (R93). -/
def TileCtx.latGroup (c : TileCtx) (sw : Sweep) (t b : Nat) (d : Dev) : Dev :=
  let h := c.latHdr d
  let dr := if sw.op = 0x46 then drbgDraw c.p else genDraw c.seed t
  let ups := (List.range 4).flatMap fun k =>
    let r := 4 * b + k
    if c.reps ≤ r then []
    else (List.range 512).filterMap fun v =>
      if spinColour v = c.active t r && !recClamp (c.latRec d v) then some (v, r) else none
  let (flips, d) := ups.foldl (fun (acc : List Flip × Dev) u =>
    let (f, d) := c.latUpdate sw dr h u.1 u.2 acc.2
    (match f with | some f => acc.1 ++ [f] | none => acc.1, d)) ([], d)
  forN 8 (fun dir d =>
    match tileNeighbour h c.l dir with
    | some l =>
      if l = c.l then d else
      d.modTake c.p fun tk => { tk with flits := tk.flits ++
        [⟨c.l, l, edgeRecord flips b dir l c.l t (c.active t (4 * b)), false⟩] }
    | none => d) d

/-- Is an edge record for group b of the step before t still on its way to the tile (R95)? -/
def TileCtx.latMissing (c : TileCtx) (d : Dev) (t b : Nat) : Bool :=
  (d.take c.p).flits.any fun f =>
    f.dst == c.l && bits f.flit 96 16 == (t - 1) % 2 ^ 16 && bits f.flit 64 9 == 4 * b && t != 0

/-- Process every group of the step whose records of the step before have been applied; `seen` lists the groups
processed. -/
def TileCtx.latAdvance (c : TileCtx) (sw : Sweep) (t : Nat) (d : Dev) : Sweep × Dev :=
  (List.range ((c.reps + 3) / 4)).foldl (fun (acc : Sweep × Dev) b =>
    if acc.1.seen.contains b || c.latMissing acc.2 t b then acc
    else ({ acc.1 with seen := acc.1.seen ++ [b] }, c.latGroup sw t b acc.2)) (sw, d)

/-- All groups of the step processed? -/
def TileCtx.latDone (c : TileCtx) (sw : Sweep) : Bool := sw.seen.length == (c.reps + 3) / 4

/-- The spins an edge record names: replica and patch position (R94). -/
def edgeSpins (flit : Nat) : List (Nat × Nat) :=
  let dir := bits flit 75 3
  let r0 := bits flit 64 9
  (List.range 4).flatMap fun k =>
    let ck := (bits flit 112 6 + k) % 4
    (List.range 512).filterMap fun v =>
      if onEdge dir (v / 16) (v % 16) && spinColour v == ck && bit flit (edgeBit dir k (v / 16) (v % 16))
      then some (r0 + k, v) else none

/-- A `flips` bit that R94 requires to be zero: every set bit must name a spin of the active colour. -/
def edgeFlipsOk (flit : Nat) : Bool :=
  let dir := bits flit 75 3
  let allowed := (List.range 4).foldl (fun acc k =>
    let ck := (bits flit 112 6 + k) % 4
    (List.range 512).foldl (fun acc v =>
      if onEdge dir (v / 16) (v % 16) && spinColour v == ck then acc ||| 2 ^ edgeBit dir k (v / 16) (v % 16)
      else acc) acc) 0
  bits flit 0 64 &&& allowed == bits flit 0 64

/-- A tile receives an edge record (R94, R95). One with a reserved bit set, or a bit or replica that R94 refuses, is not
applied (R13). -/
def TileCtx.edgeRecordIn (c : TileCtx) (d : Dev) (t flit : Nat) : Dev :=
  let src := bits flit 88 8
  let bad := bits flit 78 2 != 0 || bits flit 118 10 != 0 || !edgeFlipsOk flit || bits flit 64 9 % 4 != 0
  let d := if bad then d.raise c.p c.pg 0x10 (15 * 2 ^ 20 + src) else d
  let lo := bits flit 96 16
  let d := if lo != t % 2 ^ 16 && (t = 0 || lo != (t - 1) % 2 ^ 16) then d.raise c.p c.pg 0x03 lo else d
  let h := c.latHdr d
  if bad then d
  else (edgeSpins flit).foldl (fun d rv =>
    c.spreadDir d h src rv.2 rv.1 (spinSign (c.farState d src rv.2 rv.1)) (bits flit 75 3)) d

/-! ### Patch hash and candidate patches (R105, R106) -/

/-- 64-bit word k of the patch of replica r, in patch order. -/
def TileCtx.patchWord (c : TileCtx) (d : Dev) (r k : Nat) : Nat :=
  (List.range 64).foldl (fun acc i => acc + c.latState d (64 * k + i) r * 2 ^ i) 0

def patchHash (l : Nat) (ws : List Nat) : DWord :=
  ws.foldl (fun p w => mix (p ^^^ BitVec.ofNat 64 w)) (mix (0x9E3779B97F4A7C15#64 ^^^ BitVec.ofNat 64 l))

/-- Write a candidate's patch and its hash into a pool slot. -/
def TileCtx.writePatch (c : TileCtx) (d : Dev) (r slot : Nat) : Dev :=
  let h := c.latHdr d
  let base := latPoolBase h + 64 * latSlotStride h * slot
  let ws := (List.range 8).map (c.patchWord d r)
  let d := forN 8 (fun k d => d.takeSt c.p (base + 64 * c.l + 8 * k) 8 (ws.getD k 0)) d
  d.takeSt c.p (base + 64 * c.tiles + 8 * c.l) 8 (patchHash c.l ws).toNat

/-! ### Round notice at a tile (R102) -/

def TileCtx.rungAddr (c : TileCtx) (h r : Nat) : Nat := c.store 4 + 4 * latRungmapOff h + 2 * r

/-- Swap the rungs of accepted pairs in a rung map held as a list: slots of one ladder only. -/
def swapRungs (kk : Nat) (accepted : Nat → Bool) (rungs : List Nat) : List Nat :=
  (List.range rungs.length).map fun s =>
    let k := rungs.getD s 0
    let j := s / kk
    if k + 1 < kk && accepted (j * kk + k) then k + 1
    else if 0 < k && accepted (j * kk + k - 1) then k - 1
    else k

/-- Apply a round notice: swaps to the rung map, the β table rewritten in exchange mode, candidates' patches
written; one with a reserved bit set is not applied (R13). `kk` is the rungs per ladder. -/
def TileCtx.noticeIn (c : TileCtx) (d : Dev) (mode kk notice : Nat) : Dev :=
  let h := c.latHdr d
  let badWord := (List.range 16).any fun i => bits (bits notice (512 + 32 * i) 32) 22 9 != 0
  if badWord then d.raise c.p c.pg 0x10 (15 * 2 ^ 20) else
  let d :=
    if mode = 1 then
      let rungs := (List.range c.reps).map fun r => d.ld (c.rungAddr h r) 2
      let rungs' := swapRungs kk (fun i => bit notice i) rungs
      let d := forN c.reps (fun r d => d.takeSt c.p (c.rungAddr h r) 2 (rungs'.getD r 0)) d
      forN c.reps (fun r d =>
        c.setBeta d r (c.param d (latRungBetaOff h + (r / kk) * kk + rungs'.getD r 0))) d
    else d
  forN 16 (fun i d =>
    let w := bits notice (512 + 32 * i) 32
    if bit w 31 then c.writePatch d (bits w 0 9) (bits w 9 13) else d) d

end Sys2Proof.Machine
end

