-- ==== Sys2Proof/Machine/Reduce.lean ====
section
/-!
DEFINITION. In-network reduction (R165 to R167): the tree of node additions over the logical tiles.
-/

namespace Sys2Proof.Machine

/-- FP32 node addition (R167): canonical NaN, a finite overflow saturates. -/
def redAddFp (a b : Nat) : Nat :=
  let s := (f32 a).add (f32 b)
  match s with
  | .nan => 0x7FC00000
  | _ => (fp32.convert s).1

/-- Node addition of one word (R167). -/
def redAdd (fp : Bool) (a b : Nat) : Nat := if fp then redAddFp a b else (a + b) % 2 ^ 32

/-- ⌈log2 n⌉ for n ≥ 1. -/
def clog2 (n : Nat) : Nat := if n ≤ 1 then 0 else Nat.log2 (n - 1) + 1

/-- V[a, a + n) of R165, with fuel. -/
def redTree (fp : Bool) (part : Nat → List Nat) : Nat → Nat → Nat → List Nat
  | 0, a, _ => part a
  | f + 1, a, n =>
    if n ≤ 1 then part a
    else
      let h := 2 ^ (clog2 n - 1)
      List.zipWith (redAdd fp) (redTree fp part f a h) (redTree fp part f (a + h) (n - h))

/-- The records of the primary route set. -/
def CallSheet.primary (cs : CallSheet) : List PageRec :=
  (cs.routes.filter fun r => r.num == 0).flatMap (·.recs)

/-- Words of the route set in force. -/
def Take.routeWords (t : Take) : List Nat :=
  let recs := match t.cs.routes.find? fun r => r.num == t.activeSet && r.num != 0 with
    | some r => r.recs
    | none => t.cs.primary
  recs.flatMap (·.words)

/-- Where the result of a reduction slot lands (R165). -/
def Dev.redTarget (d : Dev) (p : Port) (slot : Nat) : Nat := Config.redDest p.idx (d.take p).routeWords slot

/-- Word formats of the reduction nodes in the slot tables of the take's routers (R250). -/
def Dev.redNodes (d : Dev) (p : Port) : List Bool :=
  (d.takePages p).flatMap fun pg =>
    match pg with
    | .router c r =>
      (List.range (d.rd pg 0x10C 0)).filterMap fun i =>
        if d.rd (.slot c r) (0x100 + 4 * i) 15 = 0 then none else some (d.rdBool (.slot c r) (0x100 + 4 * i) 21)
    | _ => []

/-- Word format of a reduction slot: that of the nodes, where all the take's nodes have one; else which nodes a slot
uses decides, which the spec says nowhere (log 28). -/
def Dev.redFormat (d : Dev) (p : Port) (slot : Nat) : Bool :=
  match d.redNodes p with
  | x :: xs => if xs.all (· == x) then x else Config.redFp (d.take p).routeWords slot
  | [] => Config.redFp (d.take p).routeWords slot

/-- Send a tile's words into a reduction slot. When every logical tile has sent its k-th contribution, the flits
that all of them sent are summed and land (R166), in memory of the partition only (R27). Words beyond the
shortest contribution stay without their other operands: they are missing flits, which the next clapper finds. -/
def Dev.reduceSend (d : Dev) (p : Port) (tile slot : Nat) (fp : Bool) (words : List Nat) : Dev :=
  let t := d.take p
  let key := 256 * tile + slot
  let k := tget 0 t.sends key
  let d := d.modTake p fun t => { t with
    sends := tput t.sends key (k + 1), reds := t.reds ++ [⟨slot, k, tile, words⟩] }
  let t := d.take p
  let mine (x : RedPart) : Bool := x.slot == slot && x.seq == k
  let parts := t.reds.filter mine
  if (List.range t.cs.tiles).all fun l => parts.any fun x => x.tile == l then
    let n := parts.foldl (fun n x => min n x.words.length) words.length
    let part (l : Nat) : List Nat := ((parts.find? fun x => x.tile == l).map (·.words.take n)).getD []
    let sum := redTree fp part 8 0 t.cs.tiles
    let left := (parts.map fun x => { x with words := x.words.drop n }).filter fun x => !x.words.isEmpty
    let d := d.modTake p fun t => { t with reds := t.reds.filter (fun x => !mine x) ++ left }
    let a := d.redTarget p slot
    if n = 0 || !d.rangeOwned p a (4 * n) then d else d.takeWrite p a (sum.flatMap (leBytes 4))
  else d

/-- The four 16-bit limbs of an INT64 value, one to a word (R98). -/
def limbs (i : Int) : List Nat :=
  let n := ofSigned 64 i
  (List.range 4).map fun k => bits n (16 * k) 16

/-- Words padded with +0 to whole flits of 32. -/
def padFlit (ws : List Nat) : List Nat := ws ++ List.replicate ((32 - ws.length % 32) % 32) 0

end Sys2Proof.Machine
end

