-- ==== Sys2Proof/Machine/TileExec.lean ====
section
/-!
DEFINITION. The tile instructions (R192 to R195), the steps they run, what a tile receives from the mesh, and
the ends of steps (R71, R75, R77).
-/

namespace Sys2Proof.Machine

def Page.site : Page → Nat | .tile s => s | _ => 0

/-! ### FIELD_INIT (R65 to R67) -/

/-- Announce: clear the activity bitmap and send every gate's state for every replica. -/
def TileCtx.announce (c : TileCtx) (d : Dev) : Dev :=
  let d := d.noteWrite c.p (c.store 6) ((c.groups * c.reps + 7) / 8)
  let d := forN (c.groups * c.reps) (fun i d => d.putElem (c.store 6) 1 i 0) d
  let d := forN c.groups (fun i d => c.faultIf d (c.checkGroup d (c.group d i))) d
  forN c.vars (fun v d =>
    let e := c.desc d v
    if e.gate then
      forN c.reps (fun r d =>
        let x := c.state d e r
        c.sendGate .plain 0 d v r x x e.colour) d
    else d) d

/-- First half of the build: check every descriptor and state, write every field word with its bias; the words of a
variable whose field overlaps another's are undefined (R32). -/
def TileCtx.buildBias (c : TileCtx) (d : Dev) : Dev :=
  forN c.vars (fun v d =>
    let e := c.desc d v
    let d := c.checkVar v (List.range c.reps) d
    let d := d.noteWrite c.p (e.fieldAddr 0 0) (4 * c.reps * e.q)
    if c.overlapped d v then d.undefine (e.fieldAddr 0 0) (4 * c.reps * e.q)
    else forN c.reps (fun r d => forN e.q (fun k d => d.st (e.fieldAddr r k) 4 (e.biasWord d k)) d) d) d

/-- Second half: walk every list for every replica and send each active entry's contribution. -/
def TileCtx.buildWalk (c : TileCtx) (d : Dev) : Dev :=
  let d := c.countGroups d false false 0 []
  let d := forN c.vars c.checkList d
  forN c.reps (fun r d =>
    c.deliver .plain 0 d ((List.range c.vars).flatMap fun v =>
      let e := c.desc d v
      (c.list d e).1.flatMap fun x =>
        if c.isActive d x r then c.walkEnt d e r (x.present (c.state d e r) 1) x else [])) d

/-- Every field word of the tile, for the comparison of R67. -/
def TileCtx.fieldWords (c : TileCtx) (lat : Bool) (d : Dev) : List Nat :=
  (List.range c.vars).flatMap fun v =>
    if lat then (List.range c.reps).map fun r => c.latField d v r
    else
    let e := c.desc d v
    (List.range (c.reps * e.q)).map fun i => d.ld (e.fieldAddr 0 0 + 4 * i) 4

def countDiff : List Nat → List Nat → Nat
  | a :: as, b :: bs => (if a = b then 0 else 1) + countDiff as bs
  | _, _ => 0

/-- verify_init: count the words that differ from those present at GO. -/
def TileCtx.verify (c : TileCtx) (lat : Bool) (d : Dev) : Dev :=
  if d.rdBool c.pg 0x100 2 then d.bump c.pg 0x088 (countDiff (d.tile c.s).saved (c.fieldWords lat d)) else d

/-! ### Steps -/

/-- Sweep operands (R193). -/
def sweepOf (op w : Nat) : Sweep :=
  { op := op, left := bits w 80 32, early := bit w 112, spinRule := bit w 113, pottsRule := bit w 114,
    frame := bits w 56 24, half := 0, flips := [] }

def Dev.setSweep (d : Dev) (p : Port) (k : Nat) (sw : Option Sweep) : Dev :=
  match d.member p k with
  | some m => d.setMember p k { m with sweep := sw }
  | none => d

/-- Bytes of the state store a take may write: in deep mode each page's own (R49). -/
def TileCtx.noteStates (c : TileCtx) (d : Dev) : Dev :=
  let w := stateWidth c.fmt
  if c.deep then forN ((c.vars + 511) / 512) (fun i d =>
    d.noteWrite c.p (c.desc d (512 * i)).stateBase ((min 512 (c.vars - 512 * i) * c.reps * w + 7) / 8)) d
  else d.noteWrite c.p (c.store 2) ((c.vars * c.reps * w + 7) / 8)

/-- TILE_STATUS.done of every tile of the take: its early-clap step is walked, and nothing it sent is still on its way
(R82). -/
def Dev.showDone (d : Dev) (p : Port) : Dev :=
  (d.take p).members.foldl (fun d m =>
    match m.sweep with
    | some sw =>
      if m.page.isTile && sw.early && sw.op != 0x40 && sw.half == 1 then
        d.wrBool m.page 0x104 6 (!(d.take p).flits.any fun f => f.src == d.rd m.page 0x108 0)
      else d
    | none => d) d

/-- Raise FRAME_SHORT (R75) in a tile; how many beats of work are outstanding depends on when each piece would have
been done, which the model does not time: a free value (log 35). -/
def frameShort (p : Port) (pg : Page) (d : Dev) : Dev :=
  let (n, d) := d.fresh
  d.raise p pg 0x04 (n % 2 ^ 24)

/-- Begin step t on a tile: ramp, β, updates; a coloured step walks at once, a synchronous step waits for the
clapper between its halves; a lattice step processes the groups whose records have come. The tile reaches group 0
at once: a record of the step before that it lacks then raises FRAME_SHORT (R95). -/
def beginStep (p : Port) (k : Nat) (m : Member) (sw : Sweep) (d : Dev) : Dev :=
  let c := d.tileCtx p m.page.site
  let d := d.tableCheck p k c.pg (.site c.s)
  let t := m.step
  let d := d.showStep c.pg t
  let d := d.wr c.pg 0x104 6 0
  if (d.take p).cs.lattice then
    let d := c.betaRamp d t
    let d := c.checkBeta d []
    let d := d.noteWrite p (c.store 2) ((512 * c.reps + 7) / 8)
    let d := if c.latMissing d t 0 then frameShort p c.pg d else d
    let (sw, d) := c.latAdvance { sw with seen := [], betas := (List.range c.reps).map (c.beta d) } t d
    d.setSweep p k (some sw)
  else
    let (flips, d) := c.updateAll sw t (c.noteStates d)
    let sw := { sw with flips := flips, half := if sw.op = 0x42 then 0 else 1 }
    let d := d.setSweep p k (some sw)
    if sw.op = 0x42 then d
    else (c.walkFlips sw t d flips).showDone p

/-- SWEEP, SWEEP_SYNC, SAMPLE_TRUE: the instruction starts with its first step. A tile that has not completed
FIELD_INIT in the take raises MODEL_NO_INIT (R65). -/
def doSweepOp (op : Nat) (p : Port) (k : Nat) (d : Dev) : Dev :=
  d.onInstr p k op Page.isTile fun m w d =>
    let d := if d.rdBool m.page 0x104 1 then d else d.raise p m.page 0x15 0
    beginStep p k m (sweepOf op w) d

def doSweep (p : Port) (k : Nat) (d : Dev) : Dev := doSweepOp 0x41 p k d
def doSweepSync (p : Port) (k : Nat) (d : Dev) : Dev := doSweepOp 0x42 p k d
/-- SAMPLE_TRUE draws from the take's DRBG instance; until that instance is READY the members stall. -/
def doSampleTrue (p : Port) (k : Nat) (d : Dev) : Dev :=
  if d.rd .entCell 0x110 (2 * p.idx) = 1 then doSweepOp 0x46 p k d else d

/-- FIELD_INIT: in general mode the announce sub-phase; the build follows the clapper between the sub-phases.
In lattice mode the work is done when its frame ends. -/
def doFieldInit (p : Port) (k : Nat) (d : Dev) : Dev :=
  d.onInstr p k 0x40 Page.isTile fun m w d =>
    let lat := (d.take p).cs.lattice
    let sw : Sweep := { sweepOf 0x40 w with left := 1, half := if lat then 2 else 1 }
    let d := d.setSweep p k (some sw)
    if lat then d else (d.tileCtx p m.page.site).announce d

/-! ### What a tile receives -/

/-- Is an item that reaches a tile one of FIELD_INIT? Step field 0xFFFF says so, unless the item is a step's whose
number ends in these bits (R71, R72): where this device sent it, it is known; else it is one of FIELD_INIT while the
tile is in FIELD_INIT, or stands before it or before another step. -/
def Dev.initItem (d : Dev) (p : Port) (pg : Page) (flit : Nat) : Bool :=
  bits flit 96 16 == 0xFFFF &&
    match (d.take p).flits.find? (·.flit == flit) with
    | some f => f.init
    | none => match (d.take p).memberOf pg with
      | some m => match m.sweep with
        | some sw => sw.op == 0x40
        | none => !(m.step % 2 ^ 16 == 0xFFFF && d.rdBool pg 0x104 1)
      | none => true

/-- How a tile checks the deltas it applies, by the instruction it is in (R65, R73, R77). -/
def Dev.deltaMode (d : Dev) (p : Port) (pg : Page) (init : Bool) : DeltaMode × Nat :=
  match (d.take p).memberOf pg with
  | some m =>
    match m.sweep with
    | some sw => if sw.op = 0x40 then (.plain, m.step) else if sw.op = 0x42 then (.sync, m.step)
                 else (.coloured m.step, m.step)
    | none => if init then (.plain, m.step) else (.coloured m.step, m.step)
  | none => (.plain, 0)

/-- Apply one position of a delta-channel flit to its destination tile; `drop` marks a sub-bank already taken
in this beat, `init` an item of FIELD_INIT (R69, R72, R73). A target that resolves nowhere is MODEL_TARGET (R31), whose
detail, the index of an entry elsewhere, is a free value; a target on another tile, or a slot it does not have, is
MODEL_RESERVED: DESIGN CHOICE, log 51. -/
def TileCtx.deltaIn (c : TileCtx) (d : Dev) (flit : Nat) (drop init : Bool) : Dev :=
  let src := bits flit 88 8
  let ty := bits flit 73 2
  let reserved := d.raise c.p c.pg 0x10 (15 * 2 ^ 20 + src)
  if ty = 3 then (if flit = 3 * 2 ^ 73 then d else reserved)
  else if ty = 2 || bits flit 75 5 != 0 || bits flit 118 10 != 0 then reserved
  else
    let (mode, t) := d.deltaMode c.p c.pg init
    let r := bits flit 64 9
    let g := bits flit 32 28
    if ty = 1 then
      if bits flit 8 24 != 0 || bits flit 60 4 != 0 then reserved
      else c.gateDelta mode t (bits flit 96 16) d g r (bits flit 4 4)
    else
      match c.place d g with
      | some (l, v) =>
        if l = c.l && bits flit 60 4 < (c.desc d v).slots then
          let lo := bits flit 96 16
          let d := match mode with
            | .coloured t => if lo = t % 2 ^ 16 then d else d.raise c.p c.pg 0x03 lo
            | _ => d
          let d := d.bump c.pg 0x070 1
          if drop then d.raise c.p c.pg 0x01 (2 ^ 20 + (c.desc d v).subBank r (bits flit 60 4))
          else c.apply d mode v r (bits flit 60 4) (toSigned 32 (bits flit 0 32))
        else reserved
      | none => let (n, d) := d.fresh; d.raise c.p c.pg 0x13 (n % 2 ^ 18)

/-- Is the item one the tile can take now? Announced gates wait for the tile's own announce, contributions for
its build (R65). -/
def Dev.accepts (d : Dev) (p : Port) (c : TileCtx) (flit : Nat) : Bool :=
  match (d.take p).memberOf c.pg with
  | some m =>
    if d.initItem p c.pg flit && !(d.take p).cs.lattice then
      match m.sweep with
      | some sw => sw.op == 0x40 && (if bits flit 73 2 = 1 then 1 ≤ sw.half else sw.half == 2)
      | none => false
    else true
  | none => false

/-- Remove one item from those on their way. -/
def Take.unsend (t : Take) (flit : Nat) : Take :=
  { t with flits := t.flits.eraseP fun f => f.flit == flit }

/-- The context of the destination tile of a delta-channel item. -/
def Dev.destTile (d : Dev) (p : Port) (flit : Nat) : Option TileCtx :=
  (d.siteOf p (bits flit 80 8)).map (d.tileCtx p)

/-- Does an earlier field delta of the same flit use the same sub-bank of the tile? -/
def clashBefore (c : TileCtx) (d : Dev) (earlier : List Nat) (flit : Nat) : Bool :=
  let sub (f : Nat) : Option Nat :=
    if bits f 73 2 = 0 then
      (c.place d (bits f 32 28)).map fun x => (c.desc d x.2).subBank (bits f 64 9) (bits f 60 4)
    else none
  match sub flit with
  | some b => earlier.any fun f => sub f == some b
  | none => false

/-- Take an item off those on their way, and apply it. -/
def TileCtx.takeIn (c : TileCtx) (d : Dev) (flit : Nat) (drop : Bool) : Dev :=
  c.deltaIn (d.modTake c.p fun t => t.unsend flit) flit drop (d.initItem c.p c.pg flit)

def deltaFlitLoop (c : TileCtx) : List Nat → List Nat → Dev → Dev
  | [], _, d => d
  | f :: fs, earlier, d => deltaFlitLoop c fs (earlier ++ [f]) (c.takeIn d f (clashBefore c d earlier f))

/-- DELTA_FLIT: a tile receives a delta-channel flit of eight positions, which all carry items for the same tile
(R70). -/
def doDeltaFlit (p : Port) (ps : List Nat) (d : Dev) : Dev :=
  match ps.find? (fun f => bits f 73 2 != 3) with
  | some f =>
    match d.destTile p f with
    | some c =>
      if d.running p && !(d.take p).cs.lattice &&
        ps.all (fun g => bits g 73 2 == 3 || (bits g 80 8 == bits f 80 8 && d.accepts p c g))
      then (deltaFlitLoop c ps [] (d.spoil p).oneBeat).showDone p else d
    | none => d
  | none => d

/-- GATE_DELTA: a tile receives a gate delta. -/
def doGateDelta (p : Port) (f : Nat) (d : Dev) : Dev :=
  match d.destTile p f with
  | some c =>
    if d.running p && !(d.take p).cs.lattice && bits f 73 2 = 1 && d.accepts p c f then
      (c.takeIn (d.spoil p) f false).showDone p
    else d
  | none => d

/-- Process further groups of a lattice tile's step, now that a record has come. -/
def latContinue (p : Port) (c : TileCtx) (d : Dev) : Dev :=
  match (d.take p).memberIdx c.pg with
  | some k =>
    match d.member p k with
    | some m =>
      match m.sweep with
      | some sw =>
        if sw.op = 0x40 then d
        else
          let (sw, d) := c.latAdvance sw m.step d
          d.setSweep p k (some sw)
      | none => d
    | none => d
  | none => d

/-- EDGE_RECORD: a lattice tile receives an edge record (R95). -/
def doEdgeRecord (p : Port) (f : Nat) (d : Dev) : Dev :=
  match d.destTile p f with
  | some c =>
    if d.running p && (d.take p).cs.lattice && (d.take p).memberOf c.pg != none then
      let d := (d.spoil p).modTake p fun t => t.unsend f
      let ty := bits f 73 2
      if ty = 0 then
        let t := (((d.take p).memberOf c.pg).map (·.step)).getD 0
        latContinue p c (c.edgeRecordIn d.oneBeat t f).beatOver
      else if f = 3 * 2 ^ 73 then d
      else d.raise p c.pg 0x10 (15 * 2 ^ 20 + bits f 88 8)
    else d
  | none => d

/-- Deliver everything on its way once: the items present when the round begins. -/
def deliverRound (p : Port) (d : Dev) : Dev :=
  (d.take p).flits.foldl (fun d f =>
    if (d.take p).cs.lattice then doEdgeRecord p f.flit d
    else match d.destTile p f.flit with
      | some c => c.takeIn d f.flit false
      | none => d) d

/-! ### Ends of steps -/

/-- Tile members of a take, with their index. -/
def Dev.tileMembers (d : Dev) (p : Port) : List (Nat × Member) :=
  ((d.take p).members.zipIdx.map fun x => (x.2, x.1)).filter fun x => x.2.page.isTile

/-- Is a member in the member set of an identifier: every member is in that of END (R200)? -/
def Dev.inSet (d : Dev) (p : Port) (id : Nat) (m : Member) : Bool :=
  let t := d.take p
  id == d.endId p || bit (t.cs.sets.getD (((t.cs.claps[id]?).map (·.set)).getD 0) 0) m.blk

/-- A tile outside a step does not participate in it (R71) when it has ended, or when it has arrived at a clapper
that one of the tiles in the step is to reach as well; a tile at a clapper of its own has the step still to come.
DEDUCED (log 21): the spec does not say which tiles participate. A take that is to stop waits for no tile. -/
def Dev.outOfStep (d : Dev) (p : Port) (g : List (Nat × Member × Sweep)) (m : Member) : Bool :=
  m.ended || match m.arrived with
    | some id => (d.take p).stops.status != 0 || g.any fun x => d.inSet p id x.2.1
    | none => (d.take p).halting && m.sweep.isNone

/-- The tile members in a FIELD_INIT or a step, when they all stand together: no other tile member participates,
and all are in FIELD_INIT or all in the same step. -/
def Dev.stepGroup (d : Dev) (p : Port) : List (Nat × Member × Sweep) :=
  let ts := d.tileMembers p
  let g := ts.filterMap fun x => x.2.sweep.map fun sw => (x.1, x.2, sw)
  match g with
  | [] => []
  | (_, m0, s0) :: _ =>
    if d.running p && ts.all (fun x => x.2.sweep.isSome || d.outOfStep p g x.2) &&
      g.all (fun x => if s0.op = 0x40 then x.2.2.op == 0x40 else x.2.2.op != 0x40 && x.2.1.step == m0.step)
    then g else []

/-- Bytes of a tap record: 16 of header and the packed states, padded to a multiple of 64 (R80; DEDUCED that the
padding is that of the record, log 52). -/
def tapSize (vars w : Nat) : Nat := (128 + vars * w + 511) / 512 * 64

/-- TAP_WRITE: one record per selected replica after a step that meets the interval (R79, R80). -/
def tapWrite (p : Port) (c : TileCtx) (t : Nat) (d : Dev) : Dev :=
  let st := d.tile c.s
  match st.tap with
  | none => d
  | some tap =>
    if tap.k = 0 || (t + 1 - c.t0) % tap.k != 0 then d
    else
      let w := stateWidth c.fmt
      let size := tapSize c.vars w
      let d := tap.sel.zipIdx.foldl (fun d (x : Nat × Nat) =>
        let a := tap.base + (((tap.count % tap.ring) * tap.sel.length + x.2) * c.tiles + c.l) * tap.stride
        let hdr := t % 2 ^ 48 + x.1 * 2 ^ 48 + c.l * 2 ^ 64 + c.vars * 2 ^ 72 + c.fmt * 2 ^ 88
        let lat := (d.take p).cs.lattice
        let packed := (List.range c.vars).foldl (fun acc v =>
          acc + (if lat then c.latState d v x.1 else c.state d (c.desc d v) x.1) * 2 ^ (w * v)) 0
        (d.takeWrite p a (leBytes 16 hdr ++ leBytes (size - 16) packed)).bump c.pg 0x080 1) d
      d.setTile c.s { d.tile c.s with tap := some { tap with count := tap.count + 1 } }

/-- Begin the next step of a tile member whose instruction has steps left; nothing once the take has stopped. -/
def nextStep (p : Port) (k : Nat) (d : Dev) : Dev :=
  if !d.running p then d
  else match d.member p k with
    | some m =>
      match m.sweep with
      | some sw => beginStep p k m sw d
      | none => d
    | none => d

/-- End the step of a tile member: tap, phase mark, beats; the next instruction after the last step. -/
def endStep (p : Port) (k : Nat) (d : Dev) : Dev :=
  match d.member p k with
  | some m =>
    match m.sweep with
    | some sw =>
      let c := d.tileCtx p m.page.site
      let d := tapWrite p c m.step d
      let d := d.setTile c.s { d.tile c.s with last := sw.flips }
      let (n, d) := if sw.early then (let (n, d) := d.fresh; (n % 2 ^ 24, d)) else (sw.frame + (d.take p).frameExt, d)
      let m' := { m with step := (m.step + 1) % 2 ^ 48, beats := m.beats + n }
      let d := d.showStep c.pg m'.step
      if sw.left ≤ 1 then d.setMember p k ({ m' with sweep := none }.next 0)
      else
        let sw' := { sw with left := sw.left - 1, flips := [], seen := [], half := 0 }
        d.setMember p k { m' with sweep := some sw' }
    | none => d
  | none => d

/-- Complete FIELD_INIT on a tile member (R65, R67, R96). -/
def endInit (p : Port) (k : Nat) (d : Dev) : Dev :=
  match d.member p k with
  | some m =>
    match m.sweep with
    | some sw =>
      let c := d.tileCtx p m.page.site
      let lat := (d.take p).cs.lattice
      let d := c.verify lat d
      let d := d.wr c.pg 0x104 1 1
      let n := (if lat then c.reps + 128 else sw.frame) + (d.take p).frameExt
      (d.setMember p k ({ m with sweep := none }.next n))
    | none => d
  | none => d

/-- The build sub-phase on every tile of the group: all biases first, then the walks. -/
def buildAll (p : Port) (g : List (Nat × Member × Sweep)) (d : Dev) : Dev :=
  let d := g.foldl (fun d x => d.setSweep p x.1 (some { x.2.2 with half := 2 })) d
  let d := g.foldl (fun d x => (d.tileCtx p x.2.1.page.site).buildBias d) d
  g.foldl (fun d x => (d.tileCtx p x.2.1.page.site).buildWalk d) d

/-- The walk half of a synchronous step on every tile of the group (R77). -/
def walkAll (p : Port) (g : List (Nat × Member × Sweep)) (d : Dev) : Dev :=
  g.foldl (fun d x =>
    if x.2.2.op = 0x42 && x.2.2.half = 0 then
      let c := d.tileCtx p x.2.1.page.site
      let d := d.setSweep p x.1 (some { x.2.2 with half := 1 })
      (c.walkFlips x.2.2 x.2.1.step d x.2.2.flips).showDone p
    else d) d

/-- Go on only if the take has not stopped. -/
def Dev.ifRunning (d : Dev) (p : Port) (f : Dev → Dev) : Dev := if d.running p then f d else d

/-- STEP_CLAPPER_RELEASE: the clapper inside FIELD_INIT, the clapper between the halves of a synchronous step,
or the clapper that ends an early-clap step, once every delta is applied (R65, R71, R77). At each of them a take that
is to stop stops (R20). -/
def doStepClapperRelease (p : Port) (d : Dev) : Dev :=
  let d := d.spoil p
  let g := d.stepGroup p
  if g.isEmpty || !(d.take p).flits.isEmpty || (d.take p).strips.any (·.kind == 1) || (d.take p).cs.lattice then d
  else if g.all (fun x => x.2.2.op == 0x40) then
    if g.all (fun x => x.2.2.half == 1) then (d.stepStop p).ifRunning p (buildAll p g) else d
  else if g.any (fun x => x.2.2.op == 0x42 && x.2.2.half == 0) then (d.stepStop p).ifRunning p (walkAll p g)
  else
    let e := g.filter fun x => x.2.2.early
    let d := if e.isEmpty then d else (e.foldl (fun d x => endStep p x.1 d) d).stepStop p
    e.foldl (fun d x => nextStep p x.1 d) d

/-- Tiles with outstanding work: those that sent or await an item still on its way. -/
def Take.busyTile (t : Take) (l : Nat) : Bool :=
  t.flits.any (fun f => f.src == l || f.dst == l) || t.strips.any fun x => x.kind == 1 && x.dst == l

/-- Does a field strip for the tile of a member still travel? -/
def Dev.awaitsStrip (d : Dev) (p : Port) (pg : Page) : Bool :=
  (d.take p).strips.any fun x => x.kind == 1 && x.dst == d.rd pg 0x108 0

/-- FRAME_END: the frame of a FIELD_INIT, a fixed-frame step or a lattice step elapses. Outstanding work raises
FRAME_SHORT and is finished first (R75, R95): while field strips, whose places their slot entries hold, are still
on their way, the step ends with a later FRAME_END (log 194). -/
def doFrameEnd (p : Port) (d : Dev) : Dev :=
  let d := d.spoil p
  let g := (d.stepGroup p).filter fun x => !x.2.2.early
  let await := g.filter fun x => d.awaitsStrip p x.2.1.page
  if g.isEmpty then d
  else if !await.isEmpty then await.foldl (fun d x => frameShort p x.2.1.page d) d
  else if g.all (fun x => x.2.2.op == 0x40) then
    if (d.take p).cs.lattice then
      let d := g.foldl (fun d x => (d.tileCtx p x.2.1.page.site).latInit d) d
      g.foldl (fun d x => endInit p x.1 d) d
    else
      let late := g.any fun x => x.2.2.half == 1
      let d := g.foldl (fun d x =>
        if x.2.2.half == 1 || (d.take p).busyTile ((d.tileCtx p x.2.1.page.site).l) then
          frameShort p x.2.1.page d else d) d
      let d := deliverRound p d
      let d := if late then deliverRound p (buildAll p g d) else d
      g.foldl (fun d x => endInit p x.1 d) d
  else if (d.take p).cs.lattice then
    let d := g.foldl (fun d x =>
      if (d.tileCtx p x.2.1.page.site).latDone x.2.2 then d else frameShort p x.2.1.page d) d
    let d := if g.all (fun x => (d.tileCtx p x.2.1.page.site).latDone x.2.2) then d else deliverRound p d
    let d := g.foldl (fun d x => endStep p x.1 d) d
    g.foldl (fun d x => nextStep p x.1 d) d
  else
    let d := g.foldl (fun d x =>
      if (x.2.2.op = 0x42 && x.2.2.half = 0) || (d.take p).busyTile ((d.tileCtx p x.2.1.page.site).l) then
        frameShort p x.2.1.page d else d) d
    let d := walkAll p g d
    let d := deliverRound p (deliverRound p d)
    let d := (g.foldl (fun d x => endStep p x.1 d) d).stepStop p
    g.foldl (fun d x => nextStep p x.1 d) d

/-! ### Selection lists, taps, initialisation, shares (R79, R117, R192, R193, R195) -/

/-- Strictly ascending? -/
def ascending : List Nat → Bool
  | a :: b :: t => decide (a < b) && ascending (b :: t)
  | _ => true

/-- The replicas a selection list names; none when it is malformed. -/
def TileCtx.selection (c : TileCtx) (d : Dev) (off : Nat) : Option (List Nat) :=
  let n := c.param d off
  if n = 0 || 512 < n then none
  else
    let rs := (List.range n).map fun i => bits (c.param d (off + 1 + i / 2)) (16 * (i % 2)) 16
    if rs.all (· < c.reps) && ascending rs then some rs else none

/-- As the instruction names it: 0xFFFF selects every replica. A malformed list raises MODEL_RESERVED. -/
def TileCtx.select (c : TileCtx) (d : Dev) (off : Nat) (all : Bool) : List Nat × Dev :=
  if all && off = 0xFFFF then (List.range c.reps, d)
  else match c.selection d off with
    | some rs => (rs, d)
    | none => ([], d.raise c.p c.pg 0x10 (4 * 2 ^ 20 + off))

/-- SAMPLE_TAP: arm or disarm. -/
def doSampleTap (p : Port) (k : Nat) (d : Dev) : Dev :=
  d.onInstr p k 0x43 Page.isTile fun m w d =>
    let c := d.tileCtx p m.page.site
    let d :=
      if bit w 112 then d.setTile c.s { d.tile c.s with tap := none }
      else
        let (sel, d) := c.select d (bits w 0 16) false
        d.setTile c.s { d.tile c.s with
          tap := some ⟨bits w 80 32, 64 * bits w 48 32, bits w 32 16, 64 * bits w 16 16, sel, 0⟩ }
    d.finish p k 1

/-- Initial state of a variable from its uniform (R117). -/
def initState (kind q variance x : Nat) : Nat :=
  if kind = 0 then (decide (2 ^ 23 ≤ u24 x)).toNat
  else if kind = 1 then u32 x * q / 2 ^ 32
  else f32mul (f32sqrt variance) (normal (u32 x))

/-- STATE_INIT and TRUE_INIT: every unclamped variable below `var_count`, in a lattice take too (DESIGN CHOICE, log 220),
of every selected replica. -/
def TileCtx.initStates (c : TileCtx) (dr : Drawer) (sel : List Nat) (d : Dev) : Dev :=
  let lat := (d.take c.p).cs.lattice
  let d := if lat then d.noteWrite c.p (c.store 2) ((512 * c.reps + 7) / 8) else c.noteStates d
  let first := c.first d
  forN c.vars (fun v d =>
    if lat then
      if recClamp (c.latRec d v) then d
      else sel.foldl (fun d r =>
        let (x, d) := dr 0x06 r (512 * c.l + v) 0 d
        c.setLatState d v r (initState 0 1 0 x)) d
    else
      let e := c.desc d v
      if e.clamp then d
      else sel.foldl (fun d r =>
        let (x, d) := dr 0x06 r (first + v) 0 d
        c.setState d e r (initState e.kind e.q e.variance x)) d) d

def doStateInit (p : Port) (k : Nat) (d : Dev) : Dev :=
  d.onInstr p k 0x44 Page.isTile fun m w d =>
    let c := d.tileCtx p m.page.site
    let (sel, d) := c.select d (bits w 0 16) true
    let d := c.initStates (genDraw c.seed c.t0) sel d
    d.finish p k ((c.vars * sel.length + 511) / 512 + 6)

def doTrueInit (p : Port) (k : Nat) (d : Dev) : Dev :=
  if d.rd .entCell 0x110 (2 * p.idx) = 1 then
    d.onInstr p k 0x45 Page.isTile fun m w d =>
      let c := d.tileCtx p m.page.site
      let (sel, d) := c.select d (bits w 0 16) true
      let d := c.initStates (drbgDraw p) sel d
      let (n, d) := d.fresh
      d.finish p k (n % 2 ^ 32)
  else d

/-- Energy share of a replica (R195): the pair terms summed exactly and halved by one arithmetic shift. -/
def TileCtx.share (c : TileCtx) (d : Dev) (r : Nat) : Int :=
  let lat := (d.take c.p).cs.lattice
  let uh := (List.range c.vars).foldl (fun (acc : Int × Int) v =>
    if lat then
      let b := wrap32 (recBias (c.latRec d v))
      let s := spinSign (c.latState d v r)
      (acc.1 - b * s, acc.2 - s * (toSigned 32 (c.latField d v r) - b))
    else
      let e := c.desc d v
      let x := c.state d e r
      let slot := if e.kind = 1 then x else 0
      let b := toSigned 32 (e.biasWord d slot)
      let h := toSigned 32 (d.ld (e.fieldAddr r slot) 4)
      let phi : Int := if e.kind = 0 then spinSign x else 1
      (acc.1 - b * phi, acc.2 - phi * (h - b))) (0, 0)
  uh.1 + uh.2 / 2

def doEnergyShare (p : Port) (k : Nat) (d : Dev) : Dev :=
  d.onInstr p k 0x48 Page.isTile fun m w d =>
    let c := d.tileCtx p m.page.site
    let (sel, d) := c.select d (bits w 0 16) true
    let ws := (List.range c.reps).flatMap fun r =>
      if sel.contains r then limbs (c.share d r) else [0, 0, 0, 0]
    let d := d.reduceSend p c.l (bits w 16 8) false (padFlit ws)
    d.finish p k ((c.vars * sel.length + 511) / 512 + 8)

/-- REDUCE_SEND: words from tile SRAM into a reduction slot. -/
def doReduceSend (p : Port) (k : Nat) (d : Dev) : Dev :=
  d.onInstr p k 0x49 Page.isTile fun m w d =>
    let c := d.tileCtx p m.page.site
    let n := bits w 80 16
    let slot := bits w 72 8
    let ws := (List.range n).map fun i => d.ld (tileSram c.s + 64 * bits w 96 16 + 4 * i) 4
    (d.reduceSend p c.l slot (d.redFormat p slot) ws).finish p k (n / 32)

end Sys2Proof.Machine
end

