-- ==== Sys2Proof/Machine/Ladder.lean ====
section
/-!
DEFINITION. The ladder vector engine: rounds and exchange (R99 to R102, R449), candidates and the cistern (R104
to R109), the statistics block (R110).
-/

namespace Sys2Proof.Machine

def veSram (e : Nat) : Nat := 0x1038000000 + e * 0x100000

/-! ### The ladder record (R99) -/

def Ladder.base (l : Ladder) : Nat := veSram l.ve
def Ladder.record (l : Ladder) (d : Dev) : Nat := d.ld (l.base + l.recOff) 64
def lrMode (w : Nat) : Nat := bits w 0 2
def lrLadders (w : Nat) : Nat := bits w 8 6 + 1
def lrReplicas (w : Nat) : Nat := bits w 16 10
def lrInterval (w : Nat) : Nat := bits w 32 16
def lrCandMax (w : Nat) : Nat := bits w 48 5
def lrCap (w : Nat) : Nat := bits w 64 13
def lrOrigin (w : Nat) : Nat := bits w 96 48
def lrPoolBase (w : Nat) : Nat := bits w 160 38
def lrStride (w : Nat) : Nat := bits w 198 16
def lrStatsBase (w : Nat) : Nat := bits w 224 38
def lrTraceBase (w : Nat) : Nat := bits w 288 38
def lrTraceRing (w : Nat) : Nat := bits w 352 16
def lrChainCount (w : Nat) : Nat := bits w 368 16
def lrRungBetaOff (w : Nat) : Nat := 64 * bits w 384 16
def lrChainOff (w : Nat) : Nat := 64 * bits w 400 16
def lrMemberOff (w : Nat) : Nat := 64 * bits w 416 16
def lrTableOff (w : Nat) : Nat := 64 * bits w 432 16
def lrRungmapOff (w : Nat) : Nat := 64 * bits w 448 16
/-- K, rungs of a ladder. -/
def lrRungs (w : Nat) : Nat := lrReplicas w / lrLadders w

def Ladder.rung (l : Ladder) (d : Dev) (w r : Nat) : Nat := d.ld (l.base + lrRungmapOff w + 2 * r) 2
def Ladder.rungMap (l : Ladder) (d : Dev) (w : Nat) : List Nat := (List.range (lrReplicas w)).map (l.rung d w)
def Ladder.rungBeta (l : Ladder) (d : Dev) (w i : Nat) : Nat := d.ld (l.base + lrRungBetaOff w + 4 * i) 4

/-- The slot on rung k of ladder j: the inverse map. -/
def slotOn (rungs : List Nat) (kk j k : Nat) : Nat :=
  ((List.range kk).find? fun i => rungs.getD (j * kk + i) 0 == k).map (j * kk + ·) |>.getD (j * kk)

def poolAddr (w slot : Nat) : Nat := lrPoolBase w + 64 * lrStride w * slot

/-! ### Arming (R449) -/

/-- Statistics words of a restored block (R110). -/
def statWord (bs : List Byte) (off n : Nat) : Nat := leNat ((bs.drop off).take n)

/-- Candidates named by a round notice, for a restored take. -/
def noticeCands (l : Ladder) (d : Dev) (w : Nat) (r : LadderRestore) : List Cand :=
  let pre := swapRungs (lrRungs w) (fun i => bit r.notice i) (l.rungMap d w)
  (List.range 16).filterMap fun i =>
    let cw := bits (bits r.notice (512 + 32 * i) 32) 0 32
    if bit cw 31 then
      some ⟨bits cw 0 9, bits cw 9 13, r.energies.getD (bits cw 0 9) 0, pre.getD (bits cw 0 9) 0, r.step⟩
    else none

/-- Pool slots not named by an entry or a waiting candidate. -/
def Ladder.freeSlots (l : Ladder) (d : Dev) (w : Nat) : List Nat :=
  let used := ((List.range l.entries).map fun i => bits (d.ld (l.base + lrTableOff w + 32 * i) 32) 232 13)
    ++ l.cands.map (·.pool)
  (List.range (lrCap w + lrCandMax w)).filter fun s => !used.contains s

/-- Step at which every tile member of the take stands between instructions, if they agree. -/
def Dev.roundStep (d : Dev) (p : Port) : Option Nat :=
  match d.tileMembers p with
  | [] => none
  | (k, m) :: rest =>
    if ((k, m) :: rest).all fun x => x.2.sweep.isNone && x.2.step == m.step then some m.step else none

/-- LADDER_ROUND: arm the ladder. The interval that ended at the step where the tiles now stand has no round any more
(R100, R449). -/
def doLadderRound (p : Port) (k : Nat) (d : Dev) : Dev :=
  d.onInstr p k 0x53 Page.isVe fun m w d =>
    match m.page with
    | .ve e =>
      let base : Ladder := ⟨e, 64 * bits w 0 16, [], (d.roundStep p).getD 0, [], 0, [], List.replicate 8 0, [], [], [], [], 0⟩
      let rw := base.record d
      let n := lrReplicas rw
      let kk := lrRungs rw
      let fresh : Ladder := { base with
        energies := addEnergies n [] (d.take p).laden, offers := List.replicate n 0, accepts := List.replicate n 0,
        top := (base.rungMap d rw).map (fun x => x + 1 == kk), trips := List.replicate n 0 }
      let lad : Ladder := match (d.take p).restore with
        | none => fresh
        | some r =>
          let cands := noticeCands fresh d rw r
          { fresh with
            entries := r.entries, notice := r.notice, cands := cands, last := max fresh.last r.step,
            counts := (List.range 8).map fun i => statWord r.stats (8 * i) 8,
            offers := (List.range n).map fun i => statWord r.stats (64 + 8 * i) 4,
            accepts := (List.range n).map fun i => statWord r.stats (64 + 8 * i + 4) 4,
            top := (List.range n).map fun i => bit (statWord r.stats (64 + 8 * n + 4 * i) 2) 15,
            trips := (List.range n).map fun i => statWord r.stats (64 + 8 * n + 4 * i + 2) 2 }
      let lad := { lad with free := lad.freeSlots d rw }
      let d := d.modTake p fun t => { t with ladder := some lad, laden := [] }
      let d := match (d.take p).restore with
        | none => d
        | some r => d.modTake p fun t => { t with
            notices := (List.range t.cs.tiles).map fun l => (l, r.notice / 2 ^ 512 * 2 ^ 512) }
      let d := d.wr m.page 0x104 3 1
      let d := d.wrBool m.page 0x104 4 (!lad.cands.isEmpty)
      d.finish p k 1
    | _ => d

/-! ### Exchange (R101) -/

abbrev f64 (c : Nat) : Num := fp64.decode c

/-- One offered pair: accepted, and whether a draw was made. -/
def exchange (seed t j k : Nat) (bk bk1 : Nat) (ek ek1 : Int) : Bool × Bool :=
  let dE := int64 (ek - ek1)
  let db := fp64.encode ((f32 bk).sub (f32 bk1))
  let y := fp64.encode ((f64 db).mul (f64 (fp64.encode (.ofInt dE))))
  let x := fp64.encode ((f64 y).mul (.fin false 1 (-16)))
  if (Num.zero).le (f64 x) then (true, false)
  else
    let a := (fp32.convert (f64 x).neg).1
    if (f32 a0F32).le (f32 a) then (false, false)
    else
      let u := draw seed 0x0004 (j * 512 + k) t (ofSigned 64 dE % 2 ^ 16)
      (decide (u24of u < expt a), true)

/-! ### Candidates and keys (R104, R105) -/

/-- (E, step, slot) in order. -/
def keyLt (a b : Int × Nat × Nat) : Bool :=
  decide (a.1 < b.1) || (a.1 == b.1 && (decide (a.2.1 < b.2.1) || (a.2.1 == b.2.1 && decide (a.2.2 < b.2.2))))

def insertKeyed (x : Int × Nat × Nat) : List (Int × Nat × Nat) → List (Int × Nat × Nat)
  | [] => [x]
  | y :: t => if keyLt x y then x :: y :: t else y :: insertKeyed x t

/-! ### Entries (R108) -/

def Ladder.entryAddr (l : Ladder) (w i : Nat) : Nat := l.base + lrTableOff w + 32 * i
def Ladder.entry (l : Ladder) (d : Dev) (w i : Nat) : Nat := d.ld (l.entryAddr w i) 32
def entKey (e : Nat) : Int × Nat × Nat := (toSigned 64 (bits e 0 64), bits e 128 48, bits e 176 9)
def entHash (e : Nat) : Nat := bits e 64 64
def entPool (e : Nat) : Nat := bits e 232 13

def makeEntry (c : Cand) (hash breaks : Nat) : Nat :=
  ofSigned 64 c.energy + hash * 2 ^ 64 + c.step % 2 ^ 48 * 2 ^ 128 + c.slot % 2 ^ 9 * 2 ^ 176
    + c.rung % 2 ^ 9 * 2 ^ 185 + min breaks 65535 * 2 ^ 200 + c.pool % 2 ^ 13 * 2 ^ 232

/-- H of R106 from the patch hashes in a pool slot. -/
def stateHash (d : Dev) (w tiles slot : Nat) : Nat :=
  let s := (List.range tiles).foldl (fun acc l => (acc + d.ld (poolAddr w slot + 64 * tiles + 8 * l) 8) % 2 ^ 64) 0
  (mix (BitVec.ofNat 64 s ^^^ BitVec.ofNat 64 tiles)).toNat

/-! ### Chains (R109) -/

/-- Spins of logical variable i, by lattice index. -/
def Ladder.chain (l : Ladder) (d : Dev) (w i : Nat) : List Nat :=
  let e := d.ld (l.base + lrChainOff w + 8 * i) 8
  (List.range (bits e 32 16)).map fun m => d.ld (l.base + lrMemberOff w + 4 * (bits e 0 32 + m)) 4 % 2 ^ 16

/-- Majority state, a tie taking the first member's; and whether the chain is broken. -/
def chainState (xs : List Nat) : Nat × Bool :=
  let ones := (xs.filter (· == 1)).length
  let zeros := xs.length - ones
  (if zeros < ones then 1 else if ones < zeros then 0 else xs.headD 0, ones != 0 && zeros != 0)

/-- Logical states of a lattice state given by spin, and the number of broken chains. -/
def Ladder.logical (l : Ladder) (d : Dev) (w : Nat) (spin : Nat → Nat) : List Nat × Nat :=
  let cs := (List.range (lrChainCount w)).map fun i => chainState ((l.chain d w i).map spin)
  (cs.map (·.1), (cs.filter (·.2)).length)

def packBits (xs : List Nat) : Nat := xs.zipIdx.foldl (fun acc x => acc + (x.1 % 2) * 2 ^ x.2) 0

/-! ### Insertion (R107) -/

def Dev.setLadder (d : Dev) (p : Port) (l : Ladder) : Dev := d.modTake p fun t => { t with ladder := some l }

def bumpAt (l : List Nat) (i : Nat) : List Nat := setAt l i (l.getD i 0 + 1)

/-- Put a freed pool slot back in order. -/
def freeSlot (s : Nat) : List Nat → List Nat
  | [] => [s]
  | x :: t => if s < x then s :: x :: t else x :: freeSlot s t

/-- Insert the first waiting candidate. -/
def insertOne (p : Port) (d : Dev) : Dev :=
  match (d.take p).ladder with
  | none => d
  | some l =>
    match l.cands with
    | [] => d
    | c :: rest =>
      let w := l.record d
      let tiles := (d.take p).cs.tiles
      let h := stateHash d w tiles c.pool
      let same := (List.range l.entries).filter fun i => entHash (l.entry d w i) == h
      let bytes (slot : Nat) := d.bytes (poolAddr w slot) (64 * tiles)
      let done (l : Ladder) (d : Dev) : Dev :=
        (d.setLadder p { l with cands := rest }).wrBool (.ve l.ve) 0x104 4 (!rest.isEmpty)
      match same.find? fun i => bytes (entPool (l.entry d w i)) == bytes c.pool with
      | some i =>
        let e := l.entry d w i
        let d := d.takeSt p (l.entryAddr w i) 32 (putBits e 216 16 (min (bits e 216 16 + 1) 65535))
        done { l with counts := bumpAt l.counts 3, free := freeSlot c.pool l.free } d
      | none =>
        if 2 ≤ same.length then
          done { l with counts := bumpAt l.counts 5, free := freeSlot c.pool l.free } d
        else
          let spin (x : Nat) : Nat := bits (d.ld (poolAddr w c.pool + 64 * (x / 512) + x % 512 / 8) 1) (x % 8) 1
          let lg := l.logical d w spin
          let d := if lrChainCount w = 0 then d
            else d.takeSt p (poolAddr w c.pool + 64 * tiles + 1024) ((lrChainCount w + 7) / 8) (packBits lg.1)
          let e := makeEntry c h (if lrChainCount w = 0 then 0 else lg.2)
          let old := (List.range l.entries).map (l.entry d w)
          let at_ := (old.filter fun x => keyLt (entKey x) (entKey e)).length
          let new := old.take at_ ++ [e] ++ old.drop at_
          let full := l.entries == lrCap w
          let keep := if full then new.dropLast else new
          let freed := if full then freeSlot (entPool (new.getLast?.getD 0)) l.free else l.free
          let d := d.takeWrite p (l.entryAddr w 0) (keep.flatMap (leBytes 32))
          let counts := bumpAt l.counts 2
          let counts := if full then bumpAt counts 4 else counts
          done { l with counts := counts, free := freed, entries := keep.length } d

/-- CISTERN_INSERT: one insertion, once every tile has written its patches. -/
def doCisternInsert (p : Port) (d : Dev) : Dev :=
  if (d.running p || d.takeState p = stPosting) && (d.take p).notices.isEmpty then insertOne p (d.spoil p) else d

/-! ### Rounds (R100) -/

/-- Gather the tiles' energy accumulators and clear them (R97, R98). -/
def gatherEnergies (p : Port) (n : Nat) (es : List Int) (d : Dev) : List Int × Dev :=
  (d.tileMembers p).foldl (fun (acc : List Int × Dev) x =>
    let st := acc.2.tile x.2.page.site
    (addEnergies n acc.1 st.energy,
      acc.2.setTile x.2.page.site { st with energy := List.replicate n 0 })) (es, d)

/-- ROUND: energies, exchange decisions, candidate selection and the notice.  A round follows the
last step of an interval (R100), so none runs before the take has run a step. -/
def doRound (p : Port) (d : Dev) : Dev :=
  match (d.take p).ladder, d.roundStep p with
  | some l, some t =>
    let w := l.record d
    let n4 := 4 * lrInterval w
    let o := lrOrigin w
    if !d.running p || t ≤ max o (d.take p).cs.stepOrigin || n4 = 0 || (t - o) % n4 != 0 || l.last = t then d
    else
      let d := d.spoil p
      let m := (t - o) / n4
      let nR := lrReplicas w
      let kk := lrRungs w
      let late := !l.cands.isEmpty
      let d := if late then frameShort p (.ve l.ve) d else d
      let d := forN l.cands.length (fun _ d => insertOne p d) d
      let l := ((d.take p).ladder).getD l
      let (es, d) := gatherEnergies p nR l.energies d
      let d := if lrTraceBase w = 0 then d
        else d.takeWrite p (lrTraceBase w + 8 * nR * (m % lrTraceRing w)) (es.flatMap fun e => leBytes 8 (ofSigned 64 e))
      let rungs := l.rungMap d w
      let seed := (d.take p).cs.seed
      let offered := if lrMode w = 1 then
          (List.range (lrLadders w)).flatMap fun j =>
            (List.range kk).filterMap fun k => if k % 2 = m % 2 && k + 1 < kk then some (j, k) else none
        else []
      let dec := offered.map fun jk =>
        let s0 := slotOn rungs kk jk.1 jk.2
        let s1 := slotOn rungs kk jk.1 (jk.2 + 1)
        (jk.1 * kk + jk.2, exchange seed t jk.1 jk.2 (l.rungBeta d w (jk.1 * kk + jk.2))
          (l.rungBeta d w (jk.1 * kk + jk.2 + 1)) (es.getD s0 0) (es.getD s1 0))
      let d := d.bump (.ve l.ve) 0x058 ((dec.filter fun x => x.2.2).length)
      let acc := (dec.filter fun x => x.2.1).map (·.1)
      let rungs' := swapRungs kk (fun i => acc.contains i) rungs
      let d := if lrMode w = 1 then
          d.takeWrite p (l.base + lrRungmapOff w) (rungs'.flatMap (leBytes 2))
        else d
      -- candidates, on the energies and rungs at the start of the round
      let keys := (List.range nR).foldl (fun acc r => insertKeyed (es.getD r 0, t, r) acc) []
      let lastKey := entKey (l.entry d w (l.entries - 1))
      let qual := if lrCandMax w = 0 then []
        else if l.entries < lrCap w then keys else keys.filter fun x => keyLt x lastKey
      let chosen := qual.take (lrCandMax w)
      let cands := chosen.zipIdx.map fun x =>
        (⟨x.1.2.2, l.free.getD x.2 0, x.1.1, rungs.getD x.1.2.2 0, t⟩ : Cand)
      let bitmap := acc.foldl (fun b i => b + 2 ^ i) 0
      let notice := cands.zipIdx.foldl (fun b x =>
        b + (x.1.slot + x.1.pool * 2 ^ 9 + 2 ^ 31) * 2 ^ (512 + 32 * x.2)) bitmap
      let reach := (List.range nR).map fun r =>
        let k := rungs'.getD r 0
        let top := l.top.getD r false
        let moved := k != rungs.getD r 0
        (if k + 1 = kk then true else if k = 0 && moved then false else top,
          if k = 0 && moved && top then min (l.trips.getD r 0 + 1) 65535 else l.trips.getD r 0)
      let counts := bumpAt l.counts 0
      let counts := setAt counts 1 (counts.getD 1 0 + cands.length)
      let counts := setAt counts 6 (counts.getD 6 0 + (qual.length - cands.length))
      let l' : Ladder := { l with
        energies := es, last := t, cands := cands, free := l.free.drop cands.length, notice := notice,
        counts := counts,
        offers := (List.range nR).map fun i =>
          if dec.any (·.1 == i) then min (l.offers.getD i 0 + 1) (2 ^ 32 - 1) else l.offers.getD i 0,
        accepts := (List.range nR).map fun i =>
          if acc.contains i then min (l.accepts.getD i 0 + 1) (2 ^ 32 - 1) else l.accepts.getD i 0,
        top := reach.map (·.1), trips := reach.map (·.2) }
      let d := d.setLadder p l'
      let d := d.wrBool (.ve l.ve) 0x104 4 (!cands.isEmpty)
      d.modTake p fun tk => { tk with notices := tk.notices ++ (List.range tk.cs.tiles).map fun i => (i, notice) }
  | _, _ => d

/-- How a tile takes a round notice: by the ladder's mode; the notice that a restored take applies again, before any
round of its own, names patches only (R102, R110). -/
def Dev.noticeMode (d : Dev) (p : Port) (l : Ladder) : Nat :=
  match (d.take p).restore with
  | some r => if l.counts.getD 0 0 = statWord r.stats 0 8 then 0 else lrMode (l.record d)
  | none => lrMode (l.record d)

/-- ROUND_NOTICE: a tile receives a round notice. -/
def doRoundNotice (p : Port) (tile notice : Nat) (d : Dev) : Dev :=
  match d.siteOf p tile, (d.take p).ladder with
  | some s, some l =>
    if (d.running p || d.takeState p = stPosting) && ((d.take p).memberOf (.tile s)).isSome then
      let w := l.record d
      let d := (d.spoil p).modTake p fun t => { t with notices := t.notices.erase (tile, notice) }
      (d.tileCtx p s).noticeIn d (d.noticeMode p l) (lrRungs w) notice
    else d
  | _, _ => d

/-! ### The statistics block (R110) -/

/-- The statistics block as it stands. -/
def statsBlock (p : Port) (l : Ladder) (d : Dev) : List Byte :=
  let w := l.record d
  let nR := lrReplicas w
  let kk := lrRungs w
  let rungs := l.rungMap d w
  let spin (r x : Nat) : Nat :=
    match d.siteOf p (x / 512) with
    | some s => (d.tileCtx p s).latState d (x % 512) r
    | none => 0
  l.counts.flatMap (leBytes 8)
    ++ (List.range nR).flatMap (fun i => leBytes 4 (l.offers.getD i 0) ++ leBytes 4 (l.accepts.getD i 0))
    ++ (List.range nR).flatMap (fun r =>
        leBytes 2 (rungs.getD r 0 + (l.top.getD r false).toNat * 2 ^ 15) ++ leBytes 2 (l.trips.getD r 0))
    ++ (List.range nR).flatMap (fun i => leBytes 2 (slotOn rungs kk (i / kk) (i % kk)))
    ++ (List.range nR).flatMap (fun r => leBytes 8 (ofSigned 64 (l.energies.getD r 0)))
    ++ (List.range nR).flatMap (fun r => leBytes 2 (min (l.logical d w (spin r)).2 65535))

/-- At END: the last candidates are inserted, then the statistics block is written when the record names one. -/
def ladderEnd (p : Port) (d : Dev) : Dev :=
  match (d.take p).ladder with
  | none => d
  | some l =>
    let d := forN l.cands.length (fun _ d => insertOne p d) d
    let l := ((d.take p).ladder).getD l
    let w := l.record d
    if lrStatsBase w = 0 then d else d.takeWrite p (lrStatsBase w) (statsBlock p l d)

end Sys2Proof.Machine
end

