-- ==== Sys2Proof/Machine/LinkCore.lean ====
section
/-!
DEFINITION. Flits of the Solcorin links (R296 to R299, R308), source routes (R310) and the queues in front of a
link's transmitter.
-/

namespace Sys2Proof.Machine

def Dev.link (d : Dev) (i : Nat) : LinkSt := tget {} d.links i
def Dev.setLink (d : Dev) (i : Nat) (l : LinkSt) : Dev := { d with links := tput d.links i l }
def Dev.modLink (d : Dev) (i : Nat) (f : LinkSt → LinkSt) : Dev := d.setLink i (f (d.link i))
def Dev.gw (d : Dev) (q : Nat) : GwSt := tget {} d.gws q
def Dev.setGw (d : Dev) (q : Nat) (g : GwSt) : Dev := { d with gws := tput d.gws q g }
def Dev.modGw (d : Dev) (q : Nat) (f : GwSt → GwSt) : Dev := d.setGw q (f (d.gw q))

/-! ### Bodies and flits. A body is the 2,000-bit number of flit bytes 2 to 251. -/

structure BodyHdr where
  flow : Nat := 0
  segs : Nat
  dst : Nat
  src : Nat
  hop : Nat := 0
  lenM1 : Nat := 0
  route : Nat := 0
  deriving DecidableEq, Repr

/-- A body from its header and segments of 16 bytes (R299). -/
def mkBody (h : BodyHdr) (segs : List Nat) : Nat :=
  h.flow % 2 ^ 12 + (h.segs % 16) * 2 ^ 12 + (h.dst % 1024) * 2 ^ 16 + (h.src % 1024) * 2 ^ 26 +
    (h.hop % 4) * 2 ^ 36 + (h.lenM1 % 4) * 2 ^ 38 + (h.route % 2 ^ 24) * 2 ^ 40 + 2 ^ 64 * packWords 128 segs

def bodyFlow (b : Nat) : Nat := bits b 0 12
def bodySegs (b : Nat) : Nat := bits b 12 4
def bodyDst (b : Nat) : Nat := bits b 16 10
def bodySrc (b : Nat) : Nat := bits b 26 10
def bodyHop (b : Nat) : Nat := bits b 36 2
def bodyLenM1 (b : Nat) : Nat := bits b 38 2
def bodyRoute (b h : Nat) : Nat := bits b (40 + 6 * h) 6
def bodySeg (b j : Nat) : Nat := bits b (64 + 128 * j) 128

/-- Virtual channels (R298). -/
abbrev vcBulk : Nat := 0
abbrev vcClap : Nat := 1
abbrev vcRed : Nat := 2
abbrev vcCtl : Nat := 3

/-- A flit of 256 bytes: header, body, CRC-32C over bytes 0 to 251 (R298). -/
def mkFlit (seq vc body : Nat) : Nat :=
  let low := seq % 256 + (vc % 4) * 2 ^ 8 + (body % 2 ^ 2000) * 2 ^ 16
  low + (crc32c (leBytes 252 low)) * 2 ^ 2016

def flitSeq (f : Nat) : Nat := bits f 0 8
def flitVc (f : Nat) : Nat := bits f 8 2
def flitIdle (f : Nat) : Bool := bit f 10
def flitBody (f : Nat) : Nat := bits f 16 2000
def flitCrcOk (f : Nat) : Bool := crc32c (leBytes 252 (bits f 0 2016)) == bits f 2016 32

/-- An idle flit (R296). -/
def idleFlit : Nat := 2 ^ 10

/-- Data symbols of a codeword: control word, flit A, flit B (R296). -/
def mkCodeword (word a b : Nat) : Nat := word % 2 ^ 64 + (a % 2 ^ 2048) * 2 ^ 64 + (b % 2 ^ 2048) * 2 ^ 2112

/-- The control word a link returns: acknowledgement, NAK and credits (R297). -/
def LinkSt.word (l : LinkSt) : Nat :=
  l.rxSeq % 256 + (if l.heard then 2 ^ 8 else 0) + (if l.nak then 2 ^ 9 else 0) + l.due

/-- A flit takes the next position of link i; with flit B the codeword leaves. -/
def Dev.putFlit (d : Dev) (i f : Nat) : Dev :=
  match (d.link i).half with
  | none => d.modLink i fun s => { s with half := some f }
  | some a => (d.modLink i fun s => { s with half := none, due := 0 }).emit (.codeword i (mkCodeword (d.link i).word a f))

/-- Reserved bits or codes that make a receiver refuse a flit (R298, R299). -/
def flitReserved (f : Nat) : Bool :=
  let b := flitBody f
  bits f 11 5 != 0 || bodySegs b = 0 || bits b 1984 16 != 0 ||
    (if flitVc f = vcBulk || flitVc f = vcRed then bits b 40 24 != 0 else bodyFlow b != 0) ||
    (flitVc f = vcCtl && (let s := bodySeg b 0
      4 < bits s 0 4 || bits s 4 2 = 0 || bits s 6 2 != 0 || bits s 62 66 != 0)) ||
    (flitVc f = vcClap && (bits (bodySeg b 0) 26 6 != 0 || bits (bodySeg b 0) 80 48 != 0 || bits (bodySeg b 0) 6 2 = 3))

/-! ### Routes (R310, R318) -/

/-- Vaults named by the write flows that a link receives (R295): those of its slot table that its gateway delivers
as writes. -/
def Dev.writeVaults (d : Dev) (i : Nat) : List Nat :=
  let gw := Page.gw (i / 16)
  ((List.range 512).flatMap fun k =>
    let e := 0x800 + 4 * k
    let f := 0x10000 + 16 * d.rd (.link i) e 16
    let n := d.rd gw (f + 12) 0
    if d.rd (.link i) e 14 = 0 || d.rd gw f 0 != 2 || n = 0 then []
    else
      let first := d.rd gw (f + 8) 0 / 2 ^ 21
      (List.range (min 512 ((d.rd gw (f + 8) 0 + n - 1) / 2 ^ 21 + 1 - first))).map (first + ·)).eraseDups.filter (· < 512)

/-- A recalibration holds its locks: the link is out of service (R295). -/
def Dev.recalibrating (d : Dev) (i : Nat) : Bool :=
  (d.link i).recal == 2 && (d.writeVaults i).all fun v => d.rd (.vc (v / 32)) (0x204 + 16 * (v % 32)) 3 == 4

/-- A link that service traffic may leave by: UP or DEGRADED, its cage not WAITING, no recalibration under way. -/
def Dev.linkUsable (d : Dev) (i : Nat) : Bool :=
  (d.linkState i == 2 || d.linkState i == 3) && d.rd (.cage (i / 4)) 0x104 0 != 2 && !d.recalibrating i

/-- This device's ID (R443). -/
def Dev.devId (d : Dev) : Nat := d.rd .ident 0x10C 0

/-- The route to a device: the packed hops and their number minus one. Route 0 unless its first link is out. -/
def Dev.routeTo (d : Dev) (dev : Nat) : Option (Nat × Nat) :=
  let r (o : Nat) : Option (Nat × Nat) :=
    let pg := Page.route dev
    if d.rdBool pg o 26 then some (d.rd pg o 0, d.rd pg o 24) else none
  match r 0 with
  | some x => if d.linkUsable (bits x.1 0 6) then some x else r 4
  | none => r 4

/-- Queue a service body for a device on the first link of its route: `vc` control or clapper. False when no link
leads there. -/
def Dev.sendTo (d : Dev) (dev vc : Nat) (segs : List Nat) : Bool × Dev :=
  match d.routeTo dev with
  | some (route, len) =>
    let l := bits route 0 6
    if d.linkUsable l && d.rdBool .ident 0x10C 16 then
      let b := mkBody { segs := segs.length, dst := dev, src := d.devId, hop := 1 % (len + 1), lenM1 := len, route := route } segs
      (true, d.modLink l fun s =>
        if vc = vcClap then { s with clap := s.clap ++ [b] } else { s with ctl := s.ctl ++ [.service b] })
    else (false, d)
  | none => (false, d)

/-- The service header of a control flit (R299): write 0, read request 1, read response 2, error response 3,
link management 4. -/
def svcHeader (op lines addr tag : Nat) : Nat :=
  op % 16 + (lines % 4) * 2 ^ 4 + (addr % 2 ^ 38) * 2 ^ 8 + (tag % 2 ^ 16) * 2 ^ 46

/-! ### Clapper messages (R308) -/

/-- The two segments of a clapper message: kind 0 arrive, 1 release, 2 stop. -/
def clapSegs (id kind status sender step takeId occ : Nat) : List Nat :=
  [id % 64 + (kind % 4) * 2 ^ 6 + (status % 256) * 2 ^ 8 + (sender % 1024) * 2 ^ 16 + (step % 2 ^ 48) * 2 ^ 32,
   takeId % 2 ^ 64 + (occ % 2 ^ 64) * 2 ^ 64]

/-- Logical index of this device in a take's device list (R168). -/
def Dev.logicalDev (d : Dev) (t : Take) : Nat := (t.cs.devices.findIdx? (· == d.devId)).getD 0

/-- Node of the router at which gateway q injects and receives (R245). -/
def gwNode (q : Nat) : Nat := nodeId (4 * q + 3) 10

/-- Node of the router at which the clapper unit injects and receives (R246). -/
def clapNode : Nat := nodeId 3 0

/-- Send a clapper message of a take to a logical device: over the mesh to the gateway of its first link (R246). -/
def Dev.sendClap (d : Dev) (p : Port) (dev id kind status : Nat) : Dev :=
  let t := d.take p
  let occ := tget 0 t.occ id
  let segs := clapSegs id kind status (d.logicalDev t) t.step t.cs.takeId occ
  let msg := packWords 128 segs
  let target := t.cs.devices.getD dev 0
  let r := d.sendTo target vcClap segs
  let d := match d.routeTo target with
    | some (route, _) =>
      let g := gwNode (bits route 0 6 / 16)
      if r.1 then r.2.emit (.inject clapNode 3 msg (sideband 3 g clapNode msg)) else r.2
    | none => r.2
  d.emit (.clap dev kind id occ)

/-- Start training a link (R294, R295). -/
def Dev.startTraining (d : Dev) (i : Nat) : Dev :=
  let d := ((d.wr (.link i) 0x104 0 1).wr (.link i) 0x104 3 0).wr (.link i) 0x108 20 0
  let d := (d.wr (.link i) 0x104 5 0).wr (.link i) 0x104 6 0
  d.modLink i fun s => { s with retrain := false }

end Sys2Proof.Machine
end

