-- ==== Sys2Proof/Machine/Matrix.lean ====
section
/-!
DEFINITION. Matrix engines (R131 to R164, R196, R197): operands, group sums, accumulation, chunking and spills,
drains and row statistics, the hand-off to fields, and the strips between engines and tiles.
-/

namespace Sys2Proof.Machine

/-! ### Operands -/

/-- Operands of MMA, MMA_FLIP and MMA_OUTER (R197). -/
structure Mma where
  op : Nat
  add : Bool
  neg : Bool
  trans : Bool
  sparse : Nat
  reg : Nat
  early : Bool
  m : Nat
  n : Nat
  k : Nat
  fa : Fmt
  fb : Fmt
  acc : Nat
  aBase : Nat
  bBase : Nat
  chunk : Nat
  spill : Nat
  kEnd : Nat               -- K positions of the operands; the rest of K is zero (R154)

/-- Address of a 256-byte unit of an engine's operand buffer. -/
def opBuf (q off : Nat) : Nat := (Page.me q).ownMem + 256 * off
/-- First byte of an engine's wide buffer (R240). -/
def wideBuf (q : Nat) : Nat := (Page.me q).ownMem + 0x1000000

def mmaOf (q w : Nat) : Mma :=
  { op := opcodeOf w, add := bit w 112, neg := bit w 113, trans := bit w 114, sparse := bits w 115 2,
    reg := bits w 117 1, early := bit w 118, m := bits w 103 9 + 1, n := bits w 94 9 + 1,
    k := 16 * (bits w 78 16 + 1), fa := (Fmt.ofCode (bits w 73 5)).getD .f16,
    fb := (Fmt.ofCode (bits w 68 5)).getD .f16, acc := bits w 66 2, aBase := opBuf q (bits w 48 16),
    bBase := opBuf q (bits w 32 16), chunk := bits w 16 16, spill := bits w 0 16,
    kEnd := 16 * (bits w 78 16 + 1) }

/-- 16-bit accumulation. -/
def acc16 (acc : Nat) : Bool := 2 ≤ acc
/-- Integer accumulation. -/
def accInt (acc : Nat) : Bool := acc % 2 = 1

/-- Group width of a format (R132). -/
def Fmt.group (f : Fmt) : Nat := if f.width = 16 then 4 else if f.width = 8 then 8 else 16
/-- Group width of a pair: that of the wider format (R132). -/
def groupWidth (a b : Fmt) : Nat := min a.group b.group

/-- Blocks of 16 that `n` elements fill. -/
def up16 (n : Nat) : Nat := (n + 15) / 16

/-- Element (i, j) of a matrix stored in bricks, `c16` bricks to a brick row (R136). -/
def Dev.brickElem (d : Dev) (base c16 w i j : Nat) : Nat :=
  d.elem (base + ((i / 16) * c16 + j / 16) * (32 * w)) w (16 * (i % 16) + j % 16)

def Dev.putBrick (d : Dev) (base c16 w i j v : Nat) : Dev :=
  d.putElem (base + ((i / 16) * c16 + j / 16) * (32 * w)) w (16 * (i % 16) + j % 16) v

/-- Value of an element for the products: raw integers in integer accumulation (R132). -/
def Fmt.product (f : Fmt) (int : Bool) (c : Nat) : Num :=
  if int && f == .fx16 then .ofInt (toSigned 16 c) else f.decode c

/-- Value at K position k of the element `c` read for it: a STATE4 element is one-hot over 16 positions
(R133). -/
def Fmt.at (f : Fmt) (int : Bool) (c k : Nat) : Num :=
  if f == .state4 then .ofInt (if c = k % 16 then 1 else 0) else f.product int c

/-- Index along the stored K axis of K position k. -/
def Fmt.pos (f : Fmt) (k : Nat) : Nat := if f == .state4 then k / 16 else k

/-- Brick coordinates and brick-row length of A element (i, k) in the stored matrix. -/
def Mma.aCoord (m : Mma) (i k : Nat) : Nat × Nat × Nat :=
  let x := m.fa.pos k
  if m.trans then (x, i, up16 m.m) else (i, x, up16 (m.fa.pos (m.k - 1) + 1))

/-- Bricks of the stored A matrix. -/
def Mma.bricks (m : Mma) : Nat :=
  up16 m.m * up16 (m.fa.pos (m.k - 1) + 1)

/-- Is brick `b` stored (R148)? -/
def Mma.present (m : Mma) (d : Dev) (b : Nat) : Bool := d.elem m.aBase 1 b == 1

/-- A element at K position k; none where its brick is absent. -/
def Mma.aVal (m : Mma) (d : Dev) (i k : Nat) : Option Num :=
  let (r, c, c16) := m.aCoord i k
  let w := m.fa.width
  let sign (x : Num) : Num := if m.neg then x.neg else x
  if m.sparse = 2 then
    let b := (r / 16) * c16 + c / 16
    if m.present d b then
      let idx := ((List.range b).filter (m.present d)).length
      let base := m.aBase + (m.bricks + 2047) / 2048 * 256
      some (sign (m.fa.at (accInt m.acc) (d.elem (base + idx * (32 * w)) w (16 * (r % 16) + c % 16)) k))
    else none
  else some (sign (m.fa.at (accInt m.acc) (d.brickElem m.aBase c16 w r c) k))

/-- Compressed brick of 2-of-4 weights: its address (R147). -/
def Mma.packBrick (m : Mma) (i q : Nat) : Nat :=
  m.aBase + ((i / 16) * (m.k / 16) + q) * (16 * m.fa.width + 32)

/-- Metadata word of row i of compressed brick q. -/
def Mma.meta (m : Mma) (d : Dev) (i q : Nat) : Nat :=
  d.ld (m.packBrick i q + 16 * m.fa.width + 2 * (i % 16)) 2

/-- Stored element s of row i: its K position and value. -/
def Mma.packed (m : Mma) (d : Dev) (i s : Nat) : Nat × Option Num :=
  let q := s / 8
  let off := bits (m.meta d i q) (2 * (s % 8)) 2
  (16 * q + 4 * (s % 8 / 2) + off,
    let x := m.fa.product (accInt m.acc) (d.elem (m.packBrick i q) m.fa.width (8 * (i % 16) + s % 8))
    some (if m.neg then x.neg else x))

/-- Is every brick of a K strip absent for all the output tile's rows, so that its groups take no beat (R148)? -/
def Mma.stripAbsent (m : Mma) (d : Dev) (k : Nat) : Bool :=
  m.sparse = 2 && (List.range (up16 m.m)).all fun i =>
    let (r, c, c16) := m.aCoord (16 * i) k
    !m.present d ((r / 16) * c16 + c / 16)

/-- Groups of w K positions that the product takes through the array (R148, R196). -/
def Mma.groupCount (m : Mma) (d : Dev) : Nat :=
  let w := groupWidth m.fa m.fb
  if m.sparse = 1 then m.k / 2 / w
  else if m.sparse = 2 then
    (List.range (m.k / 16)).foldl (fun n s => if m.stripAbsent d (16 * s) then n else n + 16 / w) 0
  else m.k / w

/-- The first compressed brick whose metadata has equal or descending offsets (R147). Rows at or above M are not
checked: DESIGN CHOICE, log 196. -/
def Mma.badMeta (m : Mma) (d : Dev) : Option Nat :=
  (List.range (up16 m.m * (m.k / 16))).find? fun b =>
    (List.range 16).any fun r =>
      let i := 16 * (b / (m.k / 16)) + r
      i < m.m && (List.range 4).any fun g =>
        let w := m.meta d i (b % (m.k / 16))
        bits w (4 * g + 2) 2 ≤ bits w (4 * g) 2

/-- Row i of A: K positions in the order the array takes them, with their values. -/
def Mma.aRow (m : Mma) (d : Dev) (i : Nat) : List (Nat × Option Num) :=
  if m.sparse = 1 then (List.range (m.k / 2)).map (m.packed d i)
  else (List.range m.k).map fun k => (k, m.aVal d i k)

/-! ### Column groups (R149) -/

def cgFirst (w : Nat) : Nat := bits w 0 16
def cgCount (w : Nat) : Nat := bits w 16 16
def cgGate (w : Nat) : Nat := bits w 32 16
def cgState (w : Nat) : Nat := bits w 48 4
def cgHolds (w k : Nat) : Bool := cgFirst w ≤ k && k < cgFirst w + cgCount w

/-- B element (k, j) as stored. -/
def Mma.bCode (m : Mma) (d : Dev) (k j : Nat) : Nat :=
  if m.op = 0x42 then d.brickElem m.bBase (up16 (m.fb.pos (m.k - 1) + 1)) m.fb.width j (m.fb.pos k)
  else d.brickElem m.bBase (up16 m.n) m.fb.width (m.fb.pos k) j

/-- Flip bit of source k in replica j: the image of flip bits follows the image of states. -/
def Mma.flipBit (m : Mma) (d : Dev) (k j : Nat) : Bool :=
  d.brickElem (m.bBase + up16 (m.fb.pos (m.k - 1) + 1) * up16 m.n * (32 * m.fb.width)) (up16 m.n) 1 (m.fb.pos k) j
    == 1

/-- Does an element hold a gate state? A spin gate's state 1 is +1 and 0 is −1. -/
def gateHolds (f : Fmt) (c gs : Nat) : Bool :=
  match f with
  | .spin1 => c == gs
  | .state4 => c == gs
  | _ => (f.decode c).eq (.ofInt (if gs = 1 then 1 else -1)) && gs ≤ 1

/-- Activity of column k in replica j after the step, and before it. -/
def Mma.active (m : Mma) (d : Dev) (grps : List Nat) (k j : Nat) : Bool × Bool :=
  match grps.find? fun w => cgHolds w k with
  | none => (true, true)
  | some w =>
    let c := m.bCode d (cgGate w) j
    let was := if m.op = 0x41 && m.flipBit d (cgGate w) j then 1 - c % 2 else c
    (gateHolds m.fb c (cgState w), gateHolds m.fb was (cgState w))

/-- B value at K position k for column j; none is an exact +0 (R145, R149), and so is a position beyond the operand's
end (R154, R197). -/
def Mma.bVal (m : Mma) (d : Dev) (grps : List Nat) (k j : Nat) : Option Num :=
  let c := m.bCode d k j
  let v := m.fb.at (accInt m.acc) c k
  if m.kEnd ≤ k then none
  else if m.op = 0x42 then some v
  else
    let g := m.active d grps k j
    if m.op = 0x40 then (if g.1 then some v else none)
    else
      let old := if m.flipBit d k j then v.neg else v
      let x := (if g.1 then v else .zero).sub (if g.2 then old else .zero)
      match x with
      | .fin _ 0 _ => none
      | _ => some x

/-! ### Accumulation (R154 to R160) -/

def Num.isZero : Num → Bool
  | .fin _ 0 _ => true
  | _ => false

/-- A product; an operand that is none makes it +0 (R154 rule 1). -/
def product : Option Num → Option Num → Num
  | some a, some b => a.mul b
  | _, _ => .zero

/-- The exact sum of products (R154 rules 2 to 5). -/
def exactSum : List Num → Num
  | [] => .zero
  | x :: xs => xs.foldl Num.add x

/-- Does a code of a floating format hold NaN or an infinity? -/
def FFmt.special? (f : FFmt) (c : Nat) : Bool :=
  match f.decode c with
  | .fin .. => false
  | _ => true

/-- Add to a value in a floating format, finite overflow saturating; with the saturation indication (R155,
R158). -/
def FFmt.accum (f : FFmt) (c : Nat) (x : Num) : Nat × Bool :=
  let r := f.convert ((f.decode c).add x)
  (r.1, r.2 || f.special? r.1)

/-- Add to a two's complement value, saturating. -/
def intAccum (w c : Nat) (x : Num) : Nat × Bool :=
  let r := ((Num.ofInt (toSigned w c)).add x).toFixed w 0
  (ofSigned w r.1, r.2)

/-- Add to a value of an accumulation format: 0 FP32, 1 INT32, 2 FP16, 3 INT16. -/
def accum (acc c : Nat) (x : Num) : Nat × Bool :=
  match acc with
  | 0 => fp32.accum c x
  | 1 => intAccum 32 c x
  | 2 => Machine.fp16.accum c x
  | _ => intAccum 16 c x

/-- Value of a code of an accumulation format. -/
def accVal (acc c : Nat) : Num :=
  match acc with
  | 0 => fp32.decode c
  | 1 => .ofInt (toSigned 32 c)
  | 2 => Machine.fp16.decode c
  | _ => .ofInt (toSigned 16 c)

/-- Add to the wide tile's value: FP64 or INT64 (R160). -/
def wideAccum (acc c : Nat) (x : Num) : Nat × Bool :=
  if accInt acc then intAccum 64 c x else fp64.accum c x

/-- One cell: run, total, wide value, and whether anything saturated. -/
structure Cell where
  run : Nat
  total : Nat
  wide : Nat
  sat : Bool

/-- Promote the run into the 32-bit total (R159). -/
def Cell.promote (acc : Nat) (c : Cell) : Cell :=
  let r := accum (acc % 2) c.total (accVal acc c.run)
  ⟨0, r.1, c.wide, c.sat || r.2⟩

/-- Add group sum `g`, the accumulation's n-th, with the promotion and the spill that fall on it. -/
def Cell.group (acc chunk spill n : Nat) (g : Num) (c : Cell) : Cell :=
  let c :=
    if acc16 acc then
      let r := accum acc c.run g
      let c : Cell := ⟨r.1, c.total, c.wide, c.sat || r.2⟩
      if chunk != 0 && n % chunk = 0 then c.promote acc else c
    else
      let r := accum acc c.total g
      ⟨c.run, r.1, c.wide, c.sat || r.2⟩
  if spill != 0 && n % spill = 0 then
    let r := wideAccum acc c.wide (accVal (acc % 2) c.total)
    ⟨c.run, 0, r.1, c.sat || r.2⟩
  else c

/-- The groups of one cell after `n0` earlier ones. -/
def Cell.groups (acc chunk spill : Nat) : Nat → List Num → Cell → Cell
  | _, [], c => c
  | n0, g :: gs, c => Cell.groups acc chunk spill (n0 + 1) gs (c.group acc chunk spill (n0 + 1) g)

/-- Has the run been added to since its last promotion? -/
def AccReg.runOpen (r : AccReg) : Bool := acc16 r.acc && r.chunk != 0 && r.groups % r.chunk != 0

/-- The value a drain forms for a cell, its format, and whether forming it saturated (R161, R163). -/
def AccReg.value (r : AccReg) (c : Cell) : Fmt × Nat × Bool :=
  if r.spilled then
    let w := wideAccum r.acc c.wide (accVal (r.acc % 2) c.total)
    (if accInt r.acc then .i64 else .f64, w.1, w.2)
  else if acc16 r.acc && r.chunk = 0 then (if accInt r.acc then .i16 else .f16, c.run, false)
  else (if accInt r.acc then .i32 else .f32, c.total, false)

/-! ### Registers of an engine -/

/-- Index of register n of half h of engine q. -/
def accIdx (q h n : Nat) : Nat := 4 * q + 2 * h + n

def Dev.acc (d : Dev) (q h n : Nat) : AccReg := tget {} d.accs (accIdx q h n)
def Dev.setAcc (d : Dev) (q h n : Nat) (r : AccReg) : Dev := { d with accs := tput d.accs (accIdx q h n) r }

/-- Half-array mode (R139). -/
def Dev.halfMode (d : Dev) (q : Nat) : Bool := d.rdBool (.me q) 0x100 1

/-- Address of the wide value paired with cell (i, j): two output tiles in each half's wide banks. -/
def Dev.wideAddr (d : Dev) (q h n i j : Nat) : Nat :=
  if d.halfMode q then wideBuf q + 0x200000 * h + 0x100000 * n + 8 * (256 * i + j)
  else wideBuf q + 0x200000 * n + 8 * (512 * i + j)

def AccReg.cell (r : AccReg) (i j : Nat) : Nat × Nat := tget (0, 0) r.cells (512 * i + j)

def Dev.loadCell (d : Dev) (q h n : Nat) (r : AccReg) (i j : Nat) : Cell :=
  let c := r.cell i j
  ⟨c.1, c.2, d.ld (d.wideAddr q h n i j) 8, false⟩

def AccReg.putCell (r : AccReg) (i j run total : Nat) : AccReg :=
  { r with cells := tput r.cells (512 * i + j) (run, total) }

/-- Set the saturation indications of a register (R158). -/
def Dev.markSat (d : Dev) (q h n : Nat) : Dev :=
  let d := d.wr (.me q) 0x108 0 (putBits (d.rd (.me q) 0x108 0) (2 * h + n) 1 1)
  d.setAcc q h n { d.acc q h n with flag := true }

/-- The bytes of the paired wide tile that an instruction's cells use, noted as written (R21). -/
def Dev.noteWide (d : Dev) (p : Port) (q h : Nat) (m : Mma) : Dev :=
  forN m.m (fun i d => d.noteWrite p (d.wideAddr q h m.reg i 0) (8 * m.n)) d

/-- Operands of an accumulating word in a take: the outer product's K runs over the take's replicas (R150). -/
def Dev.mma (d : Dev) (p : Port) (q w : Nat) : Mma :=
  let m := mmaOf q w
  match (d.tileMembers p).head? with
  | some x =>
    let hot := if m.fa == .state4 || m.fb == .state4 then 16 else 1
    if m.op = 0x42 then { m with kEnd := hot * d.rd x.2.page 0x10C 0 } else m
  | none => m

/-- When a register's rows are free of its spills, by the beats of its stream; the groups of its accumulation, and
whether it has spilled (R157, R160). -/
structure AccTime where
  free : Nat
  groups : Nat := 0
  spilled : Bool := false

/-- Beats in which `n` groups enter the array: two to a beat in 16-bit accumulation (R132). -/
def Mma.groupBeats (m : Mma) (n : Nat) : Nat := if acc16 m.acc then (n + 1) / 2 else n

/-- Groups of an accumulating instruction: the chunks and spills count every one, also one that takes no beat. -/
def Mma.groups (m : Mma) : Nat := (if m.sparse = 1 then m.k / 2 else m.k) / groupWidth m.fa m.fb

/-- Beats of an accumulating instruction that takes `ng` groups through the array and is issued at beat `now`: it
waits until the rows of its register's last spill have been read (R157). The first spill of an accumulation takes M
beats, a later one 2M (R160); one that falls on a group starts as the group enters the register, 12 beats behind it.
The hold applies to later instructions (DEDUCED, log 197). -/
def Mma.timing (m : Mma) (ng now : Nat) (r : AccTime) : Nat × AccTime :=
  let r := if m.add then r else { r with groups := 0, spilled := false }
  let wait := r.free - now
  let spills := if m.spill = 0 then 0 else (r.groups + m.groups) / m.spill - r.groups / m.spill
  let r' := (List.range spills).foldl (fun (x : AccTime) i =>
    let g := (r.groups / m.spill + 1 + i) * m.spill - r.groups
    let from_ := max x.free (now + wait + m.groupBeats (min g ng) + 12)
    { x with free := from_ + (if x.spilled then 2 * m.m else m.m), spilled := true }) r
  (wait + m.groupBeats ng + 12, { r' with groups := r.groups + m.groups })

/-- Accumulate the products of one instruction into a register. -/
def Dev.accumulate (d : Dev) (q h : Nat) (m : Mma) (grps : List Nat) : Dev :=
  let w := groupWidth m.fa m.fb
  let n := m.reg
  let d := if m.add then d else
    forN m.m (fun i d => forN m.n (fun j d => d.st (d.wideAddr q h n i j) 8 0) d) d
  let r0 := d.acc q h n
  let r0 := if m.add then { r0 with acc := m.acc, chunk := m.chunk, early := m.early }
    else { r0 with acc := m.acc, chunk := m.chunk, early := m.early, groups := 0, spilled := false, flag := false }
  let cols := (List.range m.n).map fun j => (List.range m.k).map fun k => m.bVal d grps k j
  let d := d.setAcc q h n r0
  let d := forN m.m (fun i d =>
    let row := m.aRow d i
    cols.zipIdx.foldl (fun d (x : List (Option Num) × Nat) =>
      let ps := row.map fun e => product e.2 (x.1.getD e.1 none)
      let gs := (chunks w ps.length ps).map exactSum
      let r := d.acc q h n
      let c0 := d.loadCell q h n r i x.2
      let c0 : Cell := if m.add then c0 else { c0 with run := 0, total := 0 }
      let c := Cell.groups m.acc m.chunk m.spill r0.groups gs c0
      let d := d.setAcc q h n (r.putCell i x.2 c.run c.total)
      let d := if c.wide = c0.wide then d else d.st (d.wideAddr q h n i x.2) 8 c.wide
      let d := d.bump (.me q) 0x040 (ps.filter fun p => !p.isZero).length
      if c.sat then d.markSat q h n else d) d) d
  let r := d.acc q h n
  d.setAcc q h n { r with
    groups := r0.groups + m.groups,
    spilled := r0.spilled || (m.spill != 0 && r0.groups / m.spill < (r0.groups + m.groups) / m.spill) }

/-- Column groups inactive in every replica of the output tile. -/
def Mma.idleGroups (m : Mma) (d : Dev) (grps : List Nat) : Nat :=
  (grps.filter fun w => cgFirst w < m.k &&
    (List.range m.n).all fun j => !(m.active d [w] (cgFirst w) j).1 && !(m.active d [w] (cgFirst w) j).2).length

/-- Sources with a non-zero B value in some replica (R146). -/
def Mma.union (m : Mma) (d : Dev) (grps : List Nat) : Nat :=
  ((List.range m.k).filter fun k => (List.range m.n).any fun j => (m.bVal d grps k j).isSome).length

/-- Is a strip a state strip on its way to half h of engine q? `dst` is q + 4 * half, the half whose port it enters by
(R139); an engine in one array takes both ports' strips. -/
def Dev.stripFor (d : Dev) (q h : Nat) (s : Strip) : Bool :=
  s.kind == 0 && s.dst < 8 && s.dst % 4 == q && (s.dst / 4 == h || !d.halfMode q)

/-- MMA, MMA_FLIP and MMA_OUTER. ME_FLIP_UNION holds the union's size also after a fixed-frame MMA_FLIP, and a union
of 65,536 sources reads 0xFFFF in its 16 bits (DESIGN CHOICE, log 198). -/
def doMmaOp (op : Nat) (p : Port) (k : Nat) (d : Dev) : Dev :=
  d.onInstr p k op Page.isMe fun mem w d =>
    match mem.page with
    | .me q =>
      let m := d.mma p q w
      let h := mem.half
      if op = 0x41 && !m.early && (d.take p).strips.any (d.stripFor q h) then
        frameShort p mem.page (d.setMember p k { mem with waiting := true })
      else
        let grps := if op = 0x42 then [] else tget [] d.groups (2 * q + h)
        let d := match (if m.sparse = 1 then m.badMeta d else none) with
          | some b => d.raise p mem.page 0x19 b
          | none => d
        let gw := groupWidth m.fa m.fb
        let u := if op = 0x41 then m.union d grps else 0
        let d0 := d
        let r := d.acc q h m.reg
        let ng := if op = 0x41 && m.early then (u + gw - 1) / gw else m.groupCount d
        let (beats, time) := m.timing ng mem.beats ⟨tget 0 mem.hold m.reg, r.groups, r.spilled⟩
        let d := if m.add && m.spill = 0 then d else d.noteWide p q h m
        let d := (d.accumulate q h m grps).bump mem.page 0x048 beats
        let d := d.setMember p k { mem with hold := tput mem.hold m.reg time.free }
        let d := if m.sparse = 2 then
            d.bump mem.page 0x050 ((List.range m.bricks).filter fun b => !m.present d0 b).length else d
        let d := d.bump mem.page 0x058 (m.idleGroups d0 grps)
        let d := if op = 0x41 then
            (d.bump mem.page 0x060 (if m.early then u else m.k)).wr mem.page 0x114 (16 * h) (min u 0xFFFF)
          else d
        d.finish p k beats
    | _ => d

def doMma (p : Port) (k : Nat) (d : Dev) : Dev := doMmaOp 0x40 p k d
def doMmaFlip (p : Port) (k : Nat) (d : Dev) : Dev := doMmaOp 0x41 p k d
def doMmaOuter (p : Port) (k : Nat) (d : Dev) : Dev := doMmaOp 0x42 p k d

/-! ### Drains (R141, R161, R162) -/

/-- A conversion at a drain: count it when it saturates or turns NaN into a number (R52, R158). -/
def Dev.convSat (d : Dev) (q h n : Nat) (b : Bool) : Dev :=
  if b then ((d.wr (.me q) 0x104 1 1).bump (.me q) 0x078 1).markSat q h n else d

/-- Larger of two values, +0 above −0; NaN if either is NaN. -/
def Num.max2 (a b : Num) : Num :=
  if a.isNan || b.isNan then .nan
  else if a.lt b then b
  else if b.lt a then a
  else if a.signBit then b else a

/-- Exact value as an integer. -/
def Num.int : Num → Int := Num.floor

/-- A row's statistics record (R162) and whether its sum saturated: a saturating INT64 sum counts as one of FP64 does,
and either sets the register's indications (DESIGN CHOICE, log 199). -/
def rowStats (int : Bool) (vs : List Num) (flag : Bool) : Nat × Bool :=
  let mx := match vs with
    | [] => Num.zero
    | v :: t => t.foldl Num.max2 v
  let sum := exactSum vs
  if int then
    let s := sum.toFixed 64 0
    (ofSigned 64 mx.int + ofSigned 64 s.1 * 2 ^ 64 + vs.length * 2 ^ 128 + (flag || s.2).toNat * 2 ^ 138, s.2)
  else
    let s := fp64.convert sum
    (fp64.encode mx + s.1 * 2 ^ 64 + vs.length * 2 ^ 128 + (flag || s.2).toNat * 2 ^ 138, s.2)

/-- Read one register row as a drain does: promote an open run, form the values; each as format and code. -/
def Dev.drainRow (d : Dev) (q h n cols i : Nat) : List (Fmt × Nat) × Dev :=
  (List.range cols).foldl (fun (acc : List (Fmt × Nat) × Dev) j =>
    let d := acc.2
    let r := d.acc q h n
    let c := d.loadCell q h n r i j
    let c := if r.runOpen then c.promote r.acc else c
    let d := d.setAcc q h n (r.putCell i j c.run c.total)
    let v := r.value c
    let d := if c.sat || v.2.2 then d.markSat q h n else d
    (acc.1 ++ [(v.1, v.2.1)], d)) ([], d)

/-- Every row of a drain: `f i values` writes what the instruction writes. -/
def Dev.drain (d : Dev) (p : Port) (q h : Nat) (w : Nat) (f : Nat → List (Fmt × Nat) → Dev → Dev) : Dev :=
  let n := bits w 112 1
  let m := bits w 103 9 + 1
  let cols := bits w 94 9 + 1
  forN m (fun i d =>
    let (vs, d) := d.drainRow q h n cols i
    let d := f i vs d
    if bit w 113 then
      let r := d.acc q h n
      let s := rowStats (accInt r.acc) (vs.map fun v => v.1.decode v.2) r.flag
      let d := if s.2 then d.markSat q h n else d
      d.takeSt p (opBuf q (bits w 16 16) + 32 * i) 32 s.1
    else d) d

/-- DRAIN: convert a register into the operand buffer, row by row. -/
def doDrain (p : Port) (k : Nat) (d : Dev) : Dev :=
  d.onInstr p k 0x43 Page.isMe fun mem w d =>
    match mem.page with
    | .me q =>
      let fo := (Fmt.ofCode (bits w 89 5)).getD .f32
      let cols := bits w 94 9 + 1
      let m := bits w 103 9 + 1
      let n := bits w 112 1
      let base := opBuf q (bits w 48 16)
      let d := d.noteWrite p base ((m * cols * fo.width + 7) / 8)
      let d := d.drain p q mem.half w fun i vs d =>
        vs.zipIdx.foldl (fun d (x : (Fmt × Nat) × Nat) =>
          let c := convertCode x.1.1 fo x.1.2
          (d.putElem base fo.width (i * cols + x.2) c.1).convSat q mem.half n c.2) d
      d.finish p k (m + 4)
    | _ => d

/-- Field strips of a send-area row: 32 words each, padded with zeros (R142). -/
def stripsOf (ws : List Nat) : List (List Nat) := chunks 32 ws.length (padFlit ws)

/-- FIELD_SET and FIELD_DIFF: update the field image, fill the send area, and send the strips; row i of the
output tile goes to the logical tile `dsts` names for it. Image and send area lie row by row, N words to a row
(DESIGN CHOICE, log 200). -/
def doFieldDrain (diff : Bool) (p : Port) (k : Nat) (dsts : List Nat) (d : Dev) : Dev :=
  d.onInstr p k (if diff then 0x45 else 0x44) Page.isMe fun mem w d =>
    match mem.page with
    | .me q =>
      let cols := bits w 94 9 + 1
      let m := bits w 103 9 + 1
      let n := bits w 112 1
      let img := opBuf q (bits w 48 16)
      let snd := opBuf q (bits w 32 16)
      let early := (d.acc q mem.half n).early
      let d := (d.noteWrite p img (4 * m * cols)).noteWrite p snd (4 * m * cols)
      let d := d.drain p q mem.half w fun i vs d =>
        let (ws, d) := vs.zipIdx.foldl (fun (acc : List Nat × Dev) (x : (Fmt × Nat) × Nat) =>
          let d := acc.2
          let a := img + 4 * (i * cols + x.2)
          let old := d.ld a 4
          let c := convertCode x.1.1 .f32 x.1.2
          let s := if diff then fp32.convert ((f32 old).add (f32 c.1)) else (c.1, false)
          let fx := (f32 s.1).toFixed 32 16
          let word := if diff then ofSigned 32 (fx.1 - fx32OfF32 old) else ofSigned 32 fx.1
          let d := (d.st a 4 s.1).st (snd + 4 * (i * cols + x.2)) 4 word
          let d := if s.2 then d.markSat q mem.half n else d
          let d := (d.convSat q mem.half n c.2).convSat q mem.half n fx.2
          (acc.1 ++ [word], d)) ([], d)
        let strips := (stripsOf ws).filter fun s => !(diff && early && s.all (· == 0))
        let dst := dsts.getD i (dsts.getLastD 0)
        let d := d.bump mem.page 0x070 strips.length
        d.modTake p fun t => { t with
          strips := t.strips ++ strips.map fun s => ⟨1, 0xF0 + q, dst, i, s⟩ }
      d.finish p k (m + 4)
    | _ => d

def doFieldSet (p : Port) (k : Nat) (dsts : List Nat) (d : Dev) : Dev := doFieldDrain false p k dsts d
def doFieldDiff (p : Port) (k : Nat) (dsts : List Nat) (d : Dev) : Dev := doFieldDrain true p k dsts d

/-! ### LOAD, STORE, SET_GROUPS -/

/-- LOAD and STORE: copy between local DRAM and a buffer over the direct vault path (R137, R196). -/
def doMeCopy (op : Nat) (p : Port) (k : Nat) (d : Dev) : Dev :=
  d.onInstr p k op Page.isMe fun mem w d =>
    match mem.page with
    | .me q =>
      let len := bits w 96 16
      let buf := (if bit w 79 then wideBuf q else opBuf q 0) + 256 * bits w 80 16
      let addr := bits w 0 38
      let d := if op = 0x46 then d.takeCopy p buf addr (256 * len) else d.takeCopy p addr buf (256 * len)
      d.finish p k ((len + 7) / 8 + 16)
    | _ => d

def doLoad (p : Port) (k : Nat) (d : Dev) : Dev := doMeCopy 0x46 p k d
def doStore (p : Port) (k : Nat) (d : Dev) : Dev := doMeCopy 0x47 p k d

/-- Is a column-group record malformed in a field of its own? -/
def cgReserved (w : Nat) : Bool :=
  bits w 52 12 != 0 || cgFirst w % 16 != 0 || cgCount w % 16 != 0 || cgCount w < 16 || 4096 < cgCount w

/-- Does record i overlap an earlier one, or hold its own gate (R149)? -/
def cgBad (ws : List Nat) (i : Nat) : Bool :=
  let w := ws.getD i 0
  cgHolds w (cgGate w) ||
    (List.range i).any fun j =>
      let v := ws.getD j 0
      cgFirst v < cgFirst w + cgCount w && cgFirst w < cgFirst v + cgCount v

/-- SET_GROUPS: install the column-group records of this stream. -/
def doSetGroups (p : Port) (k : Nat) (d : Dev) : Dev :=
  d.onInstr p k 0x48 Page.isMe fun mem w d =>
    match mem.page with
    | .me q =>
      let n := bits w 0 9
      let base := opBuf q (bits w 48 16)
      let ws := (List.range n).map fun i => d.ld (base + 8 * i) 8
      let d := { d with groups := tput d.groups (2 * q + mem.half) ws }
      let d := ws.zipIdx.foldl (fun d (x : Nat × Nat) =>
        let d := if cgReserved x.1 then d.raise p mem.page 0x10 x.2 else d
        if cgBad ws x.2 then d.raise p mem.page 0x1A x.2 else d) d
      d.finish p k 1
    | _ => d

/-! ### Strips (R140, R142) -/

/-- STRIP_SEND: send the state strips of a range of variables to the engines the route set names, in the
block's B format; `dsts` gives engine q's half h as q + 4h. A conversion that saturates shows nowhere (DESIGN CHOICE,
log 201). -/
def doStripSend (p : Port) (k : Nat) (dsts : List Nat) (fmt : Nat) (d : Dev) : Dev :=
  d.onInstr p k 0x47 Page.isTile fun mem w d =>
    let c := d.tileCtx p mem.page.site
    let n := bits w 80 16
    let fb := (Fmt.ofCode fmt).getD .spin1
    let last := (d.tile c.s).last
    let strip (v : Nat) : List Nat :=
      let e := c.desc d v
      let sts := (List.range c.reps).map fun r =>
        let x := c.state d e r
        if c.fmt = 2 then (convertCode .f32 fb x).1 else x
      let flips := (List.range c.reps).map fun r => (last.any fun f => f.v == v && f.r == r).toNat
      if bit w 112 then sts ++ List.replicate (512 - sts.length) 0 ++ flips else sts
    let ss := (List.range n).flatMap fun i =>
      let v := bits w 96 16 + i
      dsts.map fun q => (⟨0, c.l, q, v, strip v⟩ : Strip)
    (d.modTake p fun t => { t with strips := t.strips ++ ss }).finish p k (n + 4)

/-- STATE_STRIP: its engine receives the i-th strip on its way and writes it into row `row` of the B image at
`base` (256-byte units) of `cols` columns in format `fmt`, a matrix of `rows` rows; the flip bits of a strip that
carries them go to the flip image behind it. -/
def doStateStrip (p : Port) (i base row rows cols fmt : Nat) (d : Dev) : Dev :=
  let d := d.ifRunning p fun d => d.spoil p
  match (d.take p).strips[i]? with
  | some s =>
    if d.running p && s.kind = 0 && s.dst < 8 then
      let q := s.dst % 4
      let f := (Fmt.ofCode fmt).getD .spin1
      let img := opBuf q base
      let flipImg := img + up16 rows * up16 cols * (32 * f.width)
      let d := d.modTake p fun t => { t with strips := t.strips.eraseIdx i }
      let d := d.noteWrite p img (up16 rows * up16 cols * (32 * f.width))
      let d := forN cols (fun j d => d.putBrick img (up16 cols) f.width row j (s.data.getD j 0)) d
      let d := if 512 < s.data.length then
          let d := d.noteWrite p flipImg (up16 rows * up16 cols * 32)
          forN cols (fun j d => d.putBrick flipImg (up16 cols) 1 row j (s.data.getD (512 + j) 0)) d
        else d
      let d := d.bump (.me q) 0x068 1
      let wake (m : Member) : Member :=
        if m.page == Page.me q && !(d.take p).strips.any (d.stripFor q m.half) then { m with waiting := false } else m
      d.modTake p fun t => { t with members := t.members.map wake }
    else d
  | none => d

/-- FIELD_STRIP: logical tile receives the i-th strip on its way under a strip entry of its scheduled slot
table (R142). Its words are ingested in one beat: of those that lie in one sub-bank, only the first is added (R19,
R69). -/
def doFieldStrip (p : Port) (i entry : Nat) (d : Dev) : Dev :=
  let d := d.ifRunning p fun d => (d.spoil p).oneBeat
  match (d.take p).strips[i]? with
  | some s =>
    match (if s.kind = 1 then d.siteOf p s.dst else none) with
    | some site =>
      let stride := bits entry 18 5
      if d.running p && 1 ≤ stride && stride ≤ 16 && entry < 2 ^ 51 then
        let c := d.tileCtx p site
        let d := d.modTake p fun t => { t with strips := t.strips.eraseIdx i }
        let e := c.desc d (bits entry 23 15)
        let r0 := bits entry 42 9
        let step := match (d.take p).memberOf c.pg with
          | some m => match m.sweep with
            | some sw => if sw.op = 0x40 || sw.op = 0x42 then none else some m.step
            | none => none
          | none => none
        let d := d.noteWrite p (c.store 1 + 4 * bits entry 0 18) (4 * (31 * stride + 1))
        s.data.zipIdx.foldl (fun d (x : Nat × Nat) =>
          let r := r0 + x.2
          let d := match step with
            | some t =>
              if x.1 != 0 && e.colour == c.active t r then
                d.raise p c.pg 0x02 (bits entry 23 15 + r % 512 * 2 ^ 15) else d
            | none => d
          let sub := (bits entry 0 18 + x.2 * stride) % 128
          if (List.range x.2).any fun n => (bits entry 0 18 + n * stride) % 128 == sub then
            d.raise p c.pg 0x01 (2 ^ 20 + sub)
          else c.addField d (c.store 1 + 4 * (bits entry 0 18 + x.2 * stride)) (toSigned 32 x.1)) d
      else d
    | none => d
  | none => d

/-! ### Accumulator visibility (R163) -/

/-- DEBUG_READ: a read of ME_DBG_DATA_LO. -/
def doDebugRead (q : Nat) (d : Dev) : Dev :=
  if q < 4 then
    let pg := Page.me q
    if d.rdBool pg 0x100 2 then
      let n := d.rd pg 0x120 0
      let row := d.rd pg 0x124 0
      let col := d.rd pg 0x124 16
      let h := if d.halfMode q then col / 256 else 0
      let j := if d.halfMode q then col % 256 else col
      let r := d.acc q h n
      let c := d.loadCell q h n r row j
      let v : Nat :=
        if r.spilled then (r.value (if r.runOpen then c.promote r.acc else c)).2.1
        else if acc16 r.acc && r.chunk = 0 then c.run else c.total
      { (d.wr pg 0x128 0 (v % 2 ^ 32)).wr pg 0x12C 0 (v / 2 ^ 32) with resp := .data (v % 2 ^ 32) }
    else { d.logErr pg 0x31 0x128 with resp := .data 0xFFFFFFFF }
  else d

end Sys2Proof.Machine
end

