-- ==== Sys2Proof/Machine/Vector.lean ====
section
/-!
DEFINITION. Vector engines (R170 to R186): element-wise arithmetic, exact sums, normalisation, draws, energies,
combines, weight updates and CHECK_ROW.
-/

namespace Sys2Proof.Machine

/-! ### Instruction words (R172) -/

/-- A vector-engine instruction word. -/
structure VWord where
  raw : Nat
  e : Nat

def VWord.n (v : VWord) : Nat := bits v.raw 96 16
/-- SRAM address of an operand offset in 64-byte units. -/
def VWord.sram (v : VWord) (off : Nat) : Nat := veSram v.e + 64 * off
def VWord.dst (v : VWord) : Nat := v.sram (bits v.raw 80 16)
def VWord.srcA (v : VWord) : Nat := v.sram (bits v.raw 64 16)
def VWord.srcB (v : VWord) : Nat := v.sram (bits v.raw 48 16)
def VWord.fmt (v : VWord) : Fmt := (Fmt.ofCode (bits v.raw 43 5)).getD .f32
def VWord.fmtOut (v : VWord) : Fmt := (Fmt.ofCode (bits v.raw 38 5)).getD .f32
def VWord.imm (v : VWord) (lo w : Nat) : Nat := bits v.raw lo w
def VWord.flag (v : VWord) (i : Nat) : Bool := bit v.raw i
def VWord.bcast (v : VWord) : Bool := v.flag 112
def VWord.acc (v : VWord) : Bool := v.flag 113
def VWord.pg (v : VWord) : Page := .ve v.e

/-- Elements a beat (R170). -/
def Fmt.lanes (f : Fmt) : Nat := if f.width = 64 then 64 else 128
/-- Beats of an element-wise instruction over n elements. -/
def elemBeats (f : Fmt) (n : Nat) : Nat := (n + f.lanes - 1) / f.lanes + 8

/-- Run an instruction of the vector set on its word. -/
def Dev.onVec (d : Dev) (p : Port) (k op : Nat) (f : VWord → Member → Dev → Dev) : Dev :=
  d.onInstr p k op Page.isVe fun m w d =>
    match m.page with
    | .ve e => f ⟨w, e⟩ m (d.tableCheck p k m.page (.block m.page))
    | _ => d

/-- A saturation, or a NaN turned into a number (R174). -/
def Dev.veSat (d : Dev) (e : Nat) (b : Bool) : Dev :=
  if b then (d.wr (.ve e) 0x104 1 1).bump (.ve e) 0x050 1 else d

/-! ### Bank collisions (R171, R190) -/

/-- Bank of an address of the engine's SRAM. -/
def VWord.bank (v : VWord) (a : Nat) : Nat := (a - veSram v.e) / 0x20000

/-- Where element k of a packed vector lies. -/
def elemAddr (base w k : Nat) : Nat := base + k * w / 8

/-- The fate of the accesses of the beat that holds element k: whether the read of `src_b` and the write of
`dst` are dropped. -/
structure Clash where
  b : Bool
  dst : Bool

/-- Banks that hold n bytes from an address. -/
def VWord.banksOf (v : VWord) (a n : Nat) : List Nat :=
  if n = 0 then [] else (List.range (v.bank (a + n - 1) + 1 - v.bank a)).map (v.bank a + ·)

/-- Vectors an element-wise instruction moves beat by beat: is `src_a` read, the width of a vector `src_b`, if any. -/
structure Moves where
  a : Bool := true
  b : Option Nat := none

/-- Banks of the beat that holds element k, of a vector of elements of width w. -/
def VWord.beatBanks (v : VWord) (base w k : Nat) : List Nat :=
  let first := k / v.fmt.lanes * v.fmt.lanes
  let a := elemAddr base w first
  v.banksOf a (elemAddr base w (min (first + v.fmt.lanes) v.n - 1) + (w + 7) / 8 - a)

/-- In one beat an element-wise instruction reads its sources and writes its destination; a bank completes `src_a`,
then `src_b`, then the destination (R171, R190). An instruction that reads its destination uses one access for both. -/
def VWord.clashOf (v : VWord) (x : Moves) (k : Nat) : Clash :=
  let as := if x.a then v.beatBanks v.srcA v.fmt.width k else []
  let bs := match x.b with
    | some w => v.beatBanks v.srcB w k
    | none => []
  ⟨x.b.isSome && as.contains (v.bank (elemAddr v.srcB (x.b.getD 0) k)),
    (as ++ bs).contains (v.bank (elemAddr v.dst v.fmtOut.width k))⟩

/-- The sources in the operand format. -/
def VWord.moves (v : VWord) (useB : Bool) : Moves := { b := if useB then some v.fmt.width else none }
def VWord.clash (v : VWord) (useB : Bool) (k : Nat) : Clash := v.clashOf (v.moves useB) k

/-- Raise BANK_COLLISION for every bank in which two accesses of a beat meet. -/
def VWord.raiseClashes (v : VWord) (p : Port) (x : Moves) (useD : Bool) (d : Dev) : Dev :=
  forN ((v.n + v.fmt.lanes - 1) / v.fmt.lanes) (fun i d =>
    let k := i * v.fmt.lanes
    let as := if x.a then v.beatBanks v.srcA v.fmt.width k else []
    let bs := match x.b with
      | some w => v.beatBanks v.srcB w k
      | none => []
    let ds := if useD then v.beatBanks v.dst v.fmtOut.width k else []
    let met := bs.filter as.contains ++ ds.filter (as ++ bs).contains
    met.foldl (fun d b => d.raise p v.pg 0x01 b) d) d

/-- All ones in a format's width: what a dropped read returns (R19). -/
def Fmt.ones (f : Fmt) : Nat := 2 ^ f.width - 1

/-! ### Element-wise arithmetic (R174) -/

/-- The format an operation is computed in: binary64, binary32, or none for exact integers. -/
def Fmt.opFormat (f : Fmt) : Option FFmt :=
  match f.float with
  | some _ => some (if f == .f64 then fp64 else fp32)
  | none => none

/-- Round an exact result in the operation format; finite overflow saturates. For integer and fixed formats
the result is rescaled to the format's fraction bits by round to nearest even. -/
def Fmt.roundOp (f : Fmt) (x : Num) : Num × Bool :=
  match f.opFormat with
  | some g => let r := g.convert x; (g.decode r.1, r.2)
  | none =>
    match x with
    | .fin s m e =>
      let i := rneScale m (e + f.frac)
      (if i = 0 then .zero else .fin s i (-(f.frac : Int)), false)
    | _ => (x, false)

/-- max(a, b) of R173. -/
def vmax (a b : Num) : Num := a.max2 b

/-- Apply an exact operation to element k of an element-wise instruction: read, compute, round, convert. -/
def VWord.elem (v : VWord) (p : Port) (f : Num → Num → Num → Num) (useB useD : Bool) (k : Nat) (d0 d : Dev) : Dev :=
  let c := v.clash (useB && !v.bcast) k
  let w := v.fmt.width
  let a := d0.elem v.srcA w k
  let b := if !useB then 0 else if v.bcast then d0.elem v.srcB w 0 else if c.b then v.fmt.ones else d0.elem v.srcB w k
  let o := if useD then d0.elem v.dst v.fmtOut.width k else 0
  let x := f (v.fmt.decode a) (v.fmt.decode b) (v.fmtOut.decode o)
  let r := v.fmt.roundOp x
  let y := v.fmtOut.convert r.1
  let d := d.veSat v.e (r.2 || y.2)
  if c.dst then d
  else (d.noteWrite p (elemAddr v.dst v.fmtOut.width k) ((v.fmtOut.width + 7) / 8)).putElem v.dst v.fmtOut.width k y.1

/-- An element-wise instruction. Every element is read before any result is written. -/
def doElementwise (op : Nat) (f : Num → Num → Num → Num) (useB useD : Bool) (p : Port) (k : Nat) (d : Dev) : Dev :=
  d.onVec p k op fun v _ d =>
    let d0 := d
    let d := v.raiseClashes p (v.moves (useB && !v.bcast)) true d
    let d := forN v.n (fun i d => v.elem p f useB useD i d0 d) d
    d.finish p k (elemBeats v.fmt v.n) v.n

/-- VNOP: idle n beats. -/
def doVnop (p : Port) (k : Nat) (d : Dev) : Dev :=
  d.onVec p k 0x40 fun v _ d => d.finish p k v.n

def doVadd (p : Port) (k : Nat) (d : Dev) : Dev := doElementwise 0x41 (fun a b _ => a.add b) true false p k d
def doVsub (p : Port) (k : Nat) (d : Dev) : Dev := doElementwise 0x42 (fun a b _ => a.sub b) true false p k d
def doVmul (p : Port) (k : Nat) (d : Dev) : Dev := doElementwise 0x43 (fun a b _ => a.mul b) true false p k d
def doVfma (p : Port) (k : Nat) (d : Dev) : Dev := doElementwise 0x44 (fun a b c => (a.mul b).add c) true true p k d
def doVmax (p : Port) (k : Nat) (d : Dev) : Dev := doElementwise 0x45 (fun a b _ => vmax a b) true false p k d

/-- VCVT: convert every element (R52). -/
def doVcvt (p : Port) (k : Nat) (d : Dev) : Dev :=
  d.onVec p k 0x46 fun v _ d =>
    let d0 := d
    let d := v.raiseClashes p (v.moves false) true d
    let d := d.noteWrite p v.dst ((v.n * v.fmtOut.width + 7) / 8)
    let d := forN v.n (fun i d =>
      let r := convertCode v.fmt v.fmtOut (d0.elem v.srcA v.fmt.width i)
      let d := d.veSat v.e r.2
      if (v.clash false i).dst then d else d.putElem v.dst v.fmtOut.width i r.1) d
    d.finish p k (elemBeats v.fmt v.n) v.n

/-! ### Exact sums (R175) -/

/-- Raw value of an element: integer and fixed formats count in their own unit. -/
def Fmt.raw (f : Fmt) (c : Nat) : Num :=
  match f.float with
  | some g => g.decode c
  | none => .ofInt (toSigned f.width c)

/-- The 8-byte result of a sum: FP64 rounded once, or INT64 saturating. -/
def Fmt.sum8 (f : Fmt) (x : Num) : Nat × Bool :=
  match f.float with
  | some _ => fp64.convert x
  | none => let r := x.toFixed 64 0; (ofSigned 64 r.1, r.2)

def doExactSum (op : Nat) (dot : Bool) (p : Port) (k : Nat) (d : Dev) : Dev :=
  d.onVec p k op fun v _ d =>
    let d := v.raiseClashes p (v.moves (dot && !v.bcast)) false d
    let w := v.fmt.width
    let terms := (List.range v.n).map fun i =>
      let a := v.fmt.raw (d.elem v.srcA w i)
      if dot then
        let b := if v.bcast then d.elem v.srcB w 0
          else if (v.clash true i).b then v.fmt.ones else d.elem v.srcB w i
        a.mul (v.fmt.raw b)
      else a
    let r := v.fmt.sum8 (exactSum terms)
    ((d.veSat v.e r.2).takeSt p v.dst 8 r.1).finish p k (elemBeats v.fmt v.n) v.n

def doVsum (p : Port) (k : Nat) (d : Dev) : Dev := doExactSum 0x47 false p k d
def doVdot (p : Port) (k : Nat) (d : Dev) : Dev := doExactSum 0x48 true p k d

/-! ### VLN, VNORM (R176, R177) -/

/-- Write FP32 results element by element, leaving out those whose write is dropped. -/
def VWord.putF32 (v : VWord) (p : Port) (f : Nat → Nat × Bool) (d : Dev) (x : Moves := {}) : Dev :=
  let d := v.raiseClashes p x true d
  let d := d.noteWrite p v.dst (4 * v.n)
  forN v.n (fun i d =>
    let r := f i
    let d := d.veSat v.e r.2
    if (v.clashOf x i).dst then d else d.st (v.dst + 4 * i) 4 r.1) d

def doVln (p : Port) (k : Nat) (d : Dev) : Dev :=
  d.onVec p k 0x49 fun v _ d =>
    let d0 := d
    (v.putF32 p (fun i => lnF32 (d0.ld (v.srcA + 4 * i) 4)) d).finish p k (elemBeats v.fmt v.n) v.n

/-- The scores of VNORM as FP32. -/
def VWord.scores (v : VWord) (d : Dev) : List Nat :=
  (List.range v.n).map fun i =>
    let c := d.ld (v.srcA + 4 * i) 4
    if v.fmt == .fx32 then f32OfFx32 c else c

/-- Largest score: a NaN among them gives the canonical NaN. -/
def f32Max : List Nat → Nat
  | [] => 0
  | x :: xs => fp32.encode (xs.foldl (fun a b => a.max2 (f32 b)) (f32 x))

/-- β × (m − x), each operation rounded in FP32, a finite overflow saturating (R174, R177). -/
def normArg (beta m x : Nat) : Nat × Bool :=
  let a := fp32.convert ((f32 m).sub (f32 x))
  let b := fp32.convert ((f32 beta).mul (f32 a.1))
  (b.1, a.2 || b.2)

/-- VNORM: each score's share of the weights, and their sum behind the vector. -/
def doVnorm (p : Port) (k : Nat) (d : Dev) : Dev :=
  d.onVec p k 0x4A fun v _ d =>
    let xs := v.scores d
    let m := if v.flag 114 then f32Max xs else d.ld v.srcB 4
    let args := xs.map (normArg (v.imm 0 32) m)
    let ws := args.map fun a => expt a.1
    let s := ws.sum
    let ps := ws.map fun (w : Nat) =>
      if s = 0 then 0
      else fp32.encode (fp64.decode (fp64.encode ((Num.ofInt w).div (.ofInt s))))
    let d := args.foldl (fun d a => d.veSat v.e a.2) d
    let d := v.putF32 p (fun i => (ps.getD i 0, false)) (d.veSat v.e (s == 0))
    let d := d.takeSt p (v.dst + (4 * v.n + 63) / 64 * 64) 8 s
    d.finish p k (2 * elemBeats v.fmt v.n) v.n

/-! ### Draws (R178) -/

def doVnoise (p : Port) (k : Nat) (d : Dev) : Dev :=
  d.onVec p k 0x4B fun v m d =>
    let d0 := d
    let sigma := d.ld v.srcB 4
    let seed := (d.take p).cs.seed
    let f (i : Nat) : Nat × Bool :=
      let a := d0.ld (v.srcA + 4 * i) 4
      let x := draw seed (stream (v.imm 0 9) 0x05) (v.imm 9 29 + i) m.step (a % 2 ^ 16)
      let t := fp32.convert ((f32 sigma).mul (f32 (normal (u32of x))))
      let y := fp32.convert ((f32 a).add (f32 t.1))
      (y.1, t.2 || y.2)
    ((v.putF32 p f d).bump v.pg 0x058 v.n).finish p k (elemBeats v.fmt v.n) v.n

def doVrand (p : Port) (k : Nat) (d : Dev) : Dev :=
  d.onVec p k 0x4C fun v m d =>
    let d0 := d
    let seed := (d.take p).cs.seed
    let f (i : Nat) : Nat × Bool :=
      let a := if v.flag 115 then 0 else d0.ld (v.srcA + 4 * i) 4 % 2 ^ 16
      let x := draw seed (stream (v.imm 0 9) (v.imm 32 6)) (v.imm 9 23 + i) m.step a
      (if v.flag 114 then u32of x else u24of x, false)
    ((v.putF32 p f d { a := !v.flag 115 }).bump v.pg 0x058 v.n).finish p k (elemBeats v.fmt v.n) v.n

/-! ### VMOVE, EACC, EBLOCK, COMBINE -/

/-- VMOVE: 64-byte lines between SRAM and DRAM. -/
def doVmove (p : Port) (k : Nat) (d : Dev) : Dev :=
  d.onVec p k 0x4D fun v _ d =>
    let a := v.imm 0 38
    let n := 64 * v.n
    if v.flag 114 then (d.takeCopy p v.dst a n).finish p k ((v.n + 1) / 2 + 16)
    else (d.takeCopy p a v.dst n).finish p k ((v.n + 1) / 2 + 8)

/-- Write or add INT64 element r at `dst`. -/
def VWord.putAcc (v : VWord) (p : Port) (r : Nat) (x : Int) (d : Dev) : Dev :=
  let old : Int := if v.acc then d.ld (v.dst + 8 * r) 8 else 0
  d.takeSt p (v.dst + 8 * r) 8 (ofSigned 64 (old + x))

/-- Banks that EACC both reads and writes in beat b: 64 records are read and 64 elements written (R171, R179). -/
def VWord.eaccClash (v : VWord) (b : Nat) : List Nat :=
  let k := min 64 (v.n - 64 * b)
  let src := v.banksOf (v.srcA + 1024 * b) (16 * k)
  (v.banksOf (v.dst + 512 * b) (8 * k)).filter fun x => src.contains x

/-- EACC: landed limb sums into INT64 energies; a write that meets a read in one bank is dropped (R19, R190). -/
def doEacc (p : Port) (k : Nat) (d : Dev) : Dev :=
  d.onVec p k 0x4E fun v _ d =>
    let d := forN ((v.n + 63) / 64) (fun b d => (v.eaccClash b).foldl (fun d x => d.raise p v.pg 0x01 x) d) d
    let d := forN v.n (fun i d =>
      let s (j : Nat) : Nat := d.ld (v.srcA + 16 * i + 4 * j) 4 * 2 ^ (16 * j)
      if (v.eaccClash (i / 64)).contains (v.bank (v.dst + 8 * i)) then d
      else v.putAcc p i ((s 0 + s 1 + s 2 + s 3 : Nat) : Int) d) d
    d.finish p k ((v.n + 63) / 64 + 8) v.n

/-! EBLOCK's rows and strips (R180). -/

def VWord.rows (v : VWord) : Nat := v.imm 16 13 + 1
def VWord.rowTable (v : VWord) (d : Dev) : List Nat :=
  (List.range v.rows).map fun i => d.ld (v.sram (v.imm 0 16) + 4 * i) 4
/-- Bits of a state in the strips: SPIN1, or STATE4 where a row is a Potts row. -/
def VWord.stateBits (v : VWord) (d : Dev) : Nat := if (v.rowTable d).any fun w => bit w 20 then 4 else 1
/-- Bytes of a strip of n states (R140). -/
def VWord.stripStride (v : VWord) (d : Dev) : Nat := (v.n * v.stateBits d + 1023) / 1024 * 128
def VWord.stripBase (v : VWord) (d : Dev) (row : Nat) : Nat := v.srcB + bits row 0 16 * v.stripStride d

/-- Banks of the field words of EBLOCK's beat b: 64 words of the rows one behind the other. -/
def VWord.eFields (v : VWord) (b : Nat) : List Nat := v.banksOf (v.srcA + 256 * b) (4 * min 64 (v.rows * v.n - 64 * b))
/-- Bank of the state that goes with field word j. -/
def VWord.eStrip (v : VWord) (d : Dev) (j : Nat) : Nat :=
  v.bank (elemAddr (v.stripBase d ((v.rowTable d).getD (j / v.n) 0)) (v.stateBits d) (j % v.n))
/-- Is the read of the state of field word j dropped: its bank also reads fields in the beat (R190; DEDUCED, log 75)? -/
def VWord.eDropB (v : VWord) (d : Dev) (j : Nat) : Bool := (v.eFields (j / 64)).contains (v.eStrip d j)
/-- Banks of the states of beat b. -/
def VWord.eStrips (v : VWord) (d : Dev) (b : Nat) : List Nat :=
  ((List.range (min 64 (v.rows * v.n - 64 * b))).map fun i => v.eStrip d (64 * b + i)).eraseDups
/-- Is the write of replica r dropped? The results are written in the beats of the last row (DEDUCED, log 75). -/
def VWord.eDropD (v : VWord) (d : Dev) (r : Nat) : Bool :=
  let b := ((v.rows - 1) * v.n + r) / 64
  (v.eFields b ++ v.eStrips d b).contains (v.bank (v.dst + 8 * r))

/-- EBLOCK: E_block of R144 for n replicas. -/
def doEblock (p : Port) (k : Nat) (d : Dev) : Dev :=
  d.onVec p k 0x4F fun v _ d =>
    let m := v.rows
    let tab := v.sram (v.imm 0 16)
    let rows := v.rowTable d
    let w := v.stateBits d
    let d0 := d
    let d := forN ((m * v.n + 63) / 64) (fun b d =>
      ((v.eStrips d0 b).filter (v.eFields b).contains).foldl (fun d x => d.raise p v.pg 0x01 x) d) d
    let lost := ((List.range v.n).filter (v.eDropD d0)).map fun r => (((m - 1) * v.n + r) / 64, v.bank (v.dst + 8 * r))
    let d := lost.eraseDups.foldl (fun d x => d.raise p v.pg 0x01 x.2) d
    let d := rows.zipIdx.foldl (fun d (x : Nat × Nat) =>
      if bits x.1 21 11 != 0 then d.raise p v.pg 0x10 (tab + 4 * x.2 - veSram v.e) else d) d
    let d := forN v.n (fun r d =>
      let s := rows.zipIdx.foldl (fun (acc : Int) (x : Nat × Nat) =>
        let st := if v.eDropB d0 (x.2 * v.n + r) then 2 ^ w - 1 else d0.elem (v.stripBase d0 x.1) w r
        let h := toSigned 32 (d0.ld (v.srcA + 4 * (x.2 * v.n + r)) 4)
        let phi : Int := if bit x.1 20 then (if st = bits x.1 16 4 then 1 else 0) else spinSign st
        acc + phi * h) 0
      let e := -s
      if v.eDropD d0 r then d else v.putAcc p r (if v.flag 29 then e / 2 else e) d) d
    d.finish p k ((m * v.n + 63) / 64 + 8) v.n

/-- Does COMBINE drop the write of element i: its bank reads the last slot's elements in the beat (DEDUCED, log 75)? -/
def VWord.combineDrop (v : VWord) (i : Nat) : Bool :=
  let g := i / 64
  (v.banksOf (v.srcA + v.imm 0 10 * ((8 * v.n + 63) / 64 * 64) + 512 * g) (8 * min 64 (v.n - 64 * g))).contains
    (v.bank (v.dst + 8 * i))

/-- COMBINE: landed partials in ascending device order (R168). -/
def doCombine (p : Port) (k : Nat) (d : Dev) : Dev :=
  d.onVec p k 0x50 fun v _ d =>
    let dn := v.imm 0 10 + 1
    let stride := (8 * v.n + 63) / 64 * 64
    let d0 := d
    let lost := ((List.range v.n).filter v.combineDrop).map fun i => (i / 64, v.bank (v.dst + 8 * i))
    let d := lost.eraseDups.foldl (fun d x => d.raise p v.pg 0x01 x.2) d
    let d := forN v.n (fun i d =>
      let ps := (List.range dn).map fun x => d0.ld (v.srcA + x * stride + 8 * i) 8
      let r := if v.fmt == .i64 then (ps.foldl (fun acc x => (acc + x) % 2 ^ 64) 0, false)
        else ps.foldl (fun (acc : Nat × Bool) x =>
          let y := fp64.convert ((f64 acc.1).add (f64 x))
          (y.1, acc.2 || y.2)) (0, false)
      if v.combineDrop i then d.veSat v.e r.2 else (d.veSat v.e r.2).takeSt p (v.dst + 8 * i) 8 r.1) d
    d.finish p k (dn * ((v.n + 63) / 64) + 8) v.n

/-! ### WUPDATE (R182) -/

/-- WUPDATE's vectors: the statistics are 32 bits wide. -/
def VWord.statMoves (v : VWord) : Moves := { b := if v.bcast then none else some 32 }

def doWupdate (p : Port) (k : Nat) (d : Dev) : Dev :=
  d.onVec p k 0x51 fun v _ d =>
    let d0 := d
    let par := v.sram (v.imm 0 16)
    let eta := d.ld par 4
    let lam := d.ld (par + 4) 4
    let d := v.raiseClashes p v.statMoves true d
    let d := d.noteWrite p v.dst ((v.n * v.fmtOut.width + 7) / 8)
    let d := forN v.n (fun i d =>
      let c := v.clashOf v.statMoves i
      let w := fp32.encode (v.fmt.decode (d0.elem v.srcA v.fmt.width i))
      let gc := if v.bcast then d0.ld v.srcB 4 else if c.b then 0xFFFFFFFF else d0.ld (v.srcB + 4 * i) 4
      let g := if v.flag 114 then f32ofInt (toSigned 32 gc) else gc
      let op (x : Num) : Nat × Bool := fp32.convert x
      let t1 := op ((f32 eta).mul (f32 g))
      let t2 := op ((f32 lam).mul (f32 w))
      let u := op ((f32 w).add (f32 t1.1))
      let u' := op ((f32 u.1).sub (f32 t2.1))
      let y := convertCode .f32 v.fmtOut u'.1
      let d := d.veSat v.e (t1.2 || t2.2 || u.2 || u'.2 || y.2)
      if c.dst then d else d.putElem v.dst v.fmtOut.width i y.1) d
    d.finish p k (elemBeats v.fmt v.n) v.n

/-! ### CHECK_ROW (R183) -/

/-- The value a cell forms from `+0` over a row and a column, as the array would: +0 products fill the last group (R154,
R155, R159 to R161). -/
def checkValue (acc chunk spill w : Nat) (as bs : List Num) : Fmt × Nat :=
  let ps := List.zipWith (fun a b => a.mul b) as bs
  let ps := ps ++ List.replicate ((w - ps.length % w) % w) .zero
  let gs := (chunks w ps.length ps).map exactSum
  let c := Cell.groups acc chunk spill 0 gs ⟨0, 0, 0, false⟩
  let r : AccReg := ⟨acc, chunk, gs.length, spill != 0 && spill ≤ gs.length, false, false, []⟩
  let v := r.value (if r.runOpen then c.promote acc else c)
  (v.1, v.2.1)

/-- A CHECK_ROW record a reserved bit or code makes invalid. -/
def checkBad (r : Nat) : Bool :=
  bits r 139 373 != 0 || bits r 64 16 = 0 || bits r 80 10 = 0 || 512 < bits r 80 10 ||
    (Fmt.ofCode (bits r 90 5)).isNone || (Fmt.ofCode (bits r 95 5)).isNone || (Fmt.ofCode (bits r 100 5)).isNone

def doCheckRow (p : Port) (k : Nat) (d : Dev) : Dev :=
  d.onVec p k 0x52 fun v _ d =>
    let recA := v.sram (v.imm 0 16)
    let r := d.ld recA 64
    let d := if checkBad r then d.raise p v.pg 0x10 (recA - veSram v.e) else d
    let kk := bits r 64 16
    let cols := bits r 80 10
    let fa := (Fmt.ofCode (bits r 90 5)).getD .f16
    let fb := (Fmt.ofCode (bits r 95 5)).getD .f16
    let fo := (Fmt.ofCode (bits r 100 5)).getD .f32
    let acc := bits r 105 2
    let int := accInt acc
    let one (f : Fmt) (base x : Nat) : Num := f.at int (d.elem base f.width (f.pos x)) x
    let as := (List.range kk).map (one fa (v.sram (bits r 0 16)))
    let colBytes := (kk * fb.width + 511) / 512 * 64
    let bad := (List.range cols).filter fun c =>
      let bs := (List.range kk).map (one fb (v.sram (bits r 16 16) + c * colBytes))
      let x := checkValue acc (bits r 107 16) (bits r 123 16) (groupWidth fa fb) as bs
      (convertCode x.1 fo x.2).1 != d.elem (v.sram (bits r 32 16)) fo.width c
    let first := bad.headD 0xFFFF
    let d := d.takeSt p (v.sram (bits r 48 16)) 16 (bad.length + first * 2 ^ 16)
    let d := bad.foldl (fun d c => (d.bump v.pg 0x068 1).logErr v.pg 0x20 c) d
    let d := (d.wr v.pg 0x110 0 bad.length).wr v.pg 0x110 16 first
    (d.bump v.pg 0x060 1).finish p k ((cols + 127) / 128 * ((kk + 7) / 8) + 16)

end Sys2Proof.Machine
end

