-- ==== Sys2Proof/Machine/Sheet.lean ====
section
/-!
DEFINITION. Call sheets (R205 to R207): reading one from memory, the structure checks of check 1 of R208, and
the reserved bits of its sections (check 3).
-/

namespace Sys2Proof.Machine

/-! ### Reading -/

/-- The bytes of a call sheet, by offset. -/
abbrev Src := Nat → Byte

def Src.num (s : Src) (o n : Nat) : Nat := leNat ((List.range n).map fun i => s (o + i))
def Src.list (s : Src) (o n : Nat) : List Byte := (List.range n).map fun i => s (o + i)

/-- The call sheet at a local address. -/
def Dev.sheetAt (d : Dev) (a : Nat) : Src := fun i => d.mem.get (a + i)
def srcOf (bs : List Byte) : Src := fun i => bs.getD i 0

def Src.major (s : Src) : Nat := s.num 0x04 1
def Src.minor (s : Src) : Nat := s.num 0x05 1
def Src.flags (s : Src) : Nat := s.num 0x06 2
def Src.size (s : Src) : Nat := s.num 0x08 4
def Src.sections (s : Src) : Nat := s.num 0x10 2
def Src.takeId (s : Src) : Nat := s.num 0x40 8
def Src.iface (s : Src) : Nat := s.num 0x60 1

/-- A directory entry (R205). -/
structure Sect where
  ty : Nat
  off : Nat
  len : Nat
  cnt : Nat
  idx : Nat

def Src.dir (s : Src) : List Sect :=
  (List.range (s.sections)).map fun i =>
    let o := 0x80 + 16 * i
    ⟨s.num o 2, s.num (o + 4) 4, s.num (o + 8) 4, s.num (o + 12) 4, i⟩

def Src.sect (s : Src) (ty : Nat) : Option Sect := s.dir.find? fun x => x.ty == ty
/-- Entry count of a section; 0 when the sheet has none. -/
def Src.count (s : Src) (ty : Nat) : Nat := match s.sect ty with | some x => x.cnt | none => 0
def Src.base (s : Src) (ty : Nat) : Nat := match s.sect ty with | some x => x.off | none => 0

/-- What a refused check points at (R208): an entry of a section, a section with no entry of its own at fault, or
the sheet as a whole. -/
inductive Spot
  | entry (sec idx : Nat)
  | sect (sec : Nat)
  | sheet
  deriving DecidableEq, Repr

/-- Detail word of a refusal: section type and entry index (R208). The part that no entry or section gives is
`open_`, a free value (log 184). -/
def Spot.word (open_ : Nat) : Spot → Nat
  | .entry sec idx => sec % 2 ^ 16 + (idx % 2 ^ 16) * 2 ^ 16
  | .sect sec => sec % 2 ^ 16 + (open_ % 2 ^ 16) * 2 ^ 16
  | .sheet => open_ % 2 ^ 32

/-- The first entry for which `bad` holds. -/
def firstBad (sec n : Nat) (bad : Nat → Bool) : Option Spot :=
  ((List.range n).find? bad).map (Spot.entry sec)

/-- The first of several checks that fails. -/
def firstSome (l : List (Option α)) : Option α := l.findSome? id

/-! ### Sections -/

/-- Entry i of the block list: type and instance. -/
def Src.block (s : Src) (i : Nat) : Nat × Nat :=
  let o := s.base 0x01 + 4 * i
  (s.num o 2, s.num (o + 2) 2)

def Src.blocks (s : Src) : List (Nat × Nat) := (List.range (s.count 0x01)).map s.block

/-- Bytes of a block's BAR0 window by its type and instance (R438). -/
def windowOf (b : Nat × Nat) : Nat :=
  match b.1 with
  | 0x0020 => 0x2000 | 0x0030 => 0x4000 | 0x0040 => 0x10000 | 0x0050 => 0x4000 | 0x0060 => 0x10000
  | 0x0080 => 0x4000
  | 0x00A0 => if 64 ≤ b.2 && b.2 < 68 then 0x20000 else 0x1000
  | _ => 0x1000

/-- `n` page-write records from an offset, none of them past `stop`: the records and the offset behind them, or
the index of the first one that is malformed (R207). -/
def Src.records (s : Src) (blocks : List (Nat × Nat)) (stop : Nat) : Nat → Nat → Nat → Except Nat (List PageRec × Nat)
  | 0, _, pos => .ok ([], pos)
  | n + 1, i, pos =>
    let blk := s.num pos 2
    let off := 4 * s.num (pos + 2) 2
    let cnt := s.num (pos + 4) 4
    let next := pos + 8 + (4 * cnt + 7) / 8 * 8
    if stop < pos + 8 || stop < next || off < 0x100 || blocks.length ≤ blk
        || windowOf (blocks.getD blk (0, 0)) < off + 4 * cnt then .error i
    else
      match s.records blocks stop n (i + 1) next with
      | .error j => .error j
      | .ok (rs, e) =>
        .ok (⟨blk, off, (List.range cnt).map fun k => s.num (pos + 8 + 4 * k) 4⟩ :: rs, e)

/-- The page writes of section 0x02. -/
def Src.writes (s : Src) : Except Nat (List PageRec) :=
  match s.sect 0x02 with
  | none => .error 0
  | some x =>
    match s.records s.blocks (x.off + x.len) x.cnt 0 x.off with
    | .ok (rs, e) => if e = x.off + x.len then .ok rs else .error x.cnt
    | .error i => .error i

/-- Route sets from an offset (section 0x07). -/
def Src.routeSets (s : Src) (blocks : List (Nat × Nat)) (stop : Nat) :
    Nat → Nat → Nat → List Nat → Except Nat (List RouteSet)
  | 0, _, _, _ => .ok []
  | n + 1, i, pos, seen =>
    let num := s.num pos 1
    if stop < pos + 16 || 4 < num || seen.contains num then .error i
    else
      match s.records blocks stop (s.num (pos + 2) 2) 0 (pos + 16) with
      | .error _ => .error i
      | .ok (rs, e) =>
        match s.routeSets blocks stop n (i + 1) e (num :: seen) with
        | .error j => .error j
        | .ok ts => .ok (⟨num, toSigned 32 (s.num (pos + 4) 4), s.num (pos + 8) 8, rs⟩ :: ts)

def Src.routes (s : Src) : Except Nat (List RouteSet) :=
  match s.sect 0x07 with
  | none => .ok []
  | some x => s.routeSets s.blocks (x.off + x.len) x.cnt 0 x.off []

/-- Offsets of the route-set headers, for the reserved byte of each. -/
def Src.routeHeads (s : Src) : Nat → Nat → List Nat
  | 0, _ => []
  | n + 1, pos =>
    match s.records s.blocks (s.base 0x07 + s.size) (s.num (pos + 2) 2) 0 (pos + 16) with
    | .ok (_, e) => pos :: s.routeHeads n e
    | .error _ => [pos]

def Src.script (s : Src) (i : Nat) : ScriptEnt :=
  let o := s.base 0x03 + 16 * i
  ⟨s.num o 2, s.num (o + 2) 1, s.num (o + 4) 8, s.num (o + 12) 4⟩

def Src.clap (s : Src) (i : Nat) : ClapEnt :=
  let w := s.num (s.base 0x05 + 8 * i) 8
  ⟨bit w 0, bit w 1, bit w 2, bit w 3, bits w 16 16, bits w 32 32⟩

def Src.counts (s : Src) (l : Nat) : List Nat :=
  (List.range 64).map fun k => s.num (s.base 0x04 + 16 + 128 * l + 2 * k) 2

def Src.phases (s : Src) : Nat := s.num (s.base 0x08) 4

/-- The whole sheet, for a sheet that passes check 1. -/
def Src.sheet (s : Src) : CallSheet :=
  { lattice := bit s.flags 0, multi := bit s.flags 1,
    slate := s.list 0x40 64, takeId := s.takeId, seed := s.num 0x48 8, stepOrigin := s.num 0x50 6,
    tiles := s.num 0x56 1, gradeTiles := s.num 0x57 1, epoch := s.num 0x5C 4, blocks := s.blocks,
    writes := match s.writes with | .ok r => r | .error _ => [],
    scripts := (List.range (s.count 0x03)).map s.script,
    colours := bits (s.num (s.base 0x04) 4) 0 6 + 1, interleave := bit (s.num (s.base 0x04) 4) 8,
    counts := (List.range (s.count 0x04)).map s.counts,
    claps := (List.range (s.count 0x05)).map s.clap,
    sets := (List.range (s.count 0x06)).map fun i => s.num (s.base 0x06 + 64 * i) 64,
    routes := match s.routes with | .ok r => r | .error _ => [],
    phases := s.phases,
    ceilings := (List.range (s.count 0x08)).map fun i =>
      (List.range s.phases).map fun k => s.num (s.base 0x08 + 4 + 2 * (s.phases * i + k)) 2,
    reels := (List.range (s.count 0x09)).map fun i =>
      (s.num (s.base 0x09 + 16 * i) 8, s.num (s.base 0x09 + 16 * i + 8) 8),
    devices := (List.range (s.count 0x0A)).map fun i => s.num (s.base 0x0A + 2 * i) 2 % 2 ^ 10 }

/-! ### Check 1: structure -/

/-- The sheet's bytes with ranges of four zeroed. -/
def Src.zeroed (s : Src) (offs : List Nat) : List Byte :=
  (List.range s.size).map fun i => if offs.any (fun o => o ≤ i && i < o + 4) then 0 else s i

/-- Entry sizes of the sections whose length is a whole number of entries. -/
def entrySize : Nat → Option Nat
  | 0x01 => some 4 | 0x03 => some 16 | 0x05 => some 8 | 0x06 => some 64 | 0x09 => some 16 | 0x0A => some 2
  | _ => none

/-- A directory entry that breaks R205. -/
def Src.badSect (s : Src) (x : Sect) : Bool :=
  x.off % 64 != 0 || x.off < 0x80 + 16 * s.sections || s.size < x.off + x.len ||
    s.dir.any (fun y => y.idx < x.idx &&
      (y.ty == x.ty || (y.off < x.off + x.len && x.off < y.off + y.len))) ||
    (match entrySize x.ty with
      | some n => n * x.cnt != x.len
      | none => if x.ty = 0x04 then x.len != 16 + 128 * x.cnt else false)

/-- The first parts of check 1: `type` and `size`. -/
def Src.headBad (s : Src) : Bool :=
  s.num 0 4 != 0x53434B49 || s.size % 64 != 0 || decide (64 * 2 ^ 20 < s.size) || decide (s.size < 0x80)

/-- Check 1 of R208: where the first fault found stands. -/
def Src.check1 (s : Src) : Option Spot :=
  if s.headBad ||
      s.sections = 0 || 32 < s.sections || s.size < 0x80 + 16 * s.sections ||
      crc32c (s.zeroed [0x0C]) != s.num 0x0C 4 || crc32c (s.zeroed [0x0C, 0x58]) != s.num 0x58 4 then some .sheet
  else firstSome [
    (s.dir.find? s.badSect).map fun x => .sect x.ty,
    ([0x01, 0x02, 0x03, 0x04, 0x05, 0x08].find? fun t => (s.sect t).isNone).map .sect,
    (match s.writes with | .error i => some (.entry 0x02 i) | .ok _ => none),
    firstBad 0x03 (s.count 0x03) fun i => s.count 0x01 ≤ (s.script i).blk,
    (match s.routes with | .error i => some (.entry 0x07 i) | .ok _ => none),
    (match s.sect 0x08 with
      | some x =>
        if x.len < 4 || s.phases = 0 || 64 < s.phases || x.cnt != s.count 0x01 ||
            x.len < 4 + 2 * s.phases * x.cnt then some (.sect 0x08) else none
      | none => none)]

/-! ### Reserved bits of the sections (check 3) -/

/-- Block types the table of R437 names. -/
def blockTypeOk (t : Nat) : Bool :=
  [0x0001, 0x0002, 0x0003, 0x0010, 0x0020, 0x0030, 0x0040, 0x0050, 0x0060, 0x0070, 0x0080, 0x0090, 0x00A0,
    0x00B0, 0x00C0].contains t

/-- The first reserved bit or code in the header, slate, directory or a section's own entries. -/
def Src.reserved (s : Src) : Option Spot := firstSome [
  if bits s.flags 2 14 != 0 || s.num 0x12 2 != 0 || s.num 0x18 40 != 0 || s.num 0x61 31 != 0 then some .sheet else none,
  (s.dir.find? fun x => x.ty = 0 || 0x0A < x.ty || s.num (0x80 + 16 * x.idx + 2) 2 != 0).map
    fun x => .sect x.ty,
  firstBad 0x01 (s.count 0x01) fun i => !blockTypeOk (s.block i).1,
  firstBad 0x03 (s.count 0x03) fun i =>
    1 < (s.script i).half || s.num (s.base 0x03 + 16 * i + 3) 1 != 0,
  if s.num (s.base 0x04) 16 != (s.num (s.base 0x04) 1 % 64) + 256 * (s.num (s.base 0x04 + 1) 1 % 2)
    then some (.sect 0x04) else none,
  firstBad 0x05 (s.count 0x05) fun i => bits (s.num (s.base 0x05 + 8 * i) 8) 4 12 != 0,
  firstBad 0x06 (s.count 0x06) fun i => 2 ^ s.count 0x01 ≤ s.num (s.base 0x06 + 64 * i) 64,
  firstBad 0x07 (s.count 0x07) fun i =>
    match (s.routeHeads (s.count 0x07) (s.base 0x07))[i]? with
    | some o => s.num (o + 1) 1 != 0
    | none => false,
  firstBad 0x0A (s.count 0x0A) fun i => 2 ^ 10 ≤ s.num (s.base 0x0A + 2 * i) 2]

end Sys2Proof.Machine
end

