-- ==== Sys2Proof/Machine/Words.lean ====
section
/-!
DEFINITION. Script words as the firmware decodes them at validation (R187 to R198): the bits each instruction
names, its variance class, its planned beats, and the order in which a script's words run.
-/

namespace Sys2Proof.Machine

/-- Operand and flag fields, lowest bit and width, that an instruction of a block's script set names; none where
the opcode is reserved in that set (R191 to R198). -/
def namedBits (bt op : Nat) : Option (List (Nat × Nat)) :=
  if op < 0x40 then
    if bt = 0x00C0 && !(op = 0 || op = 1 || op = 5) then none
    else match op with
      | 0x00 => some [(0, 32)]
      | 0x01 => some []
      | 0x02 => some [(0, 6)] | 0x03 => some [(0, 6)] | 0x04 => some [(0, 6)]
      | 0x05 => some [(0, 32), (32, 16)]
      | 0x06 => some [(0, 32)]
      | 0x07 => some [(0, 16), (16, 32)] | 0x08 => some [(0, 16), (16, 32)]
      | 0x09 => some [(0, 38), (48, 32), (80, 16)]
      | _ => none
  else match bt with
    | 0x0030 =>
      let sweep := [(112, 4), (80, 32), (56, 24)]
      match op with
      | 0x40 => some [(56, 24)]
      | 0x41 => some sweep | 0x42 => some sweep | 0x46 => some sweep
      | 0x43 => some [(112, 1), (80, 32), (48, 32), (32, 16), (16, 16), (0, 16)]
      | 0x44 => some [(0, 16)] | 0x45 => some [(0, 16)]
      | 0x47 => some [(112, 1), (96, 16), (80, 16)]
      | 0x48 => some [(0, 16), (16, 8)]
      | 0x49 => some [(96, 16), (80, 16), (72, 8)]
      | _ => none
    | 0x0040 =>
      let mma := [(112, 7), (103, 9), (94, 9), (78, 16), (73, 5), (68, 5), (66, 2), (48, 16), (32, 16), (16, 16),
        (0, 16)]
      let drain := [(112, 2), (103, 9), (94, 9), (89, 5), (48, 16), (32, 16), (16, 16)]
      let copy := [(96, 16), (80, 16), (79, 1), (0, 38)]
      match op with
      | 0x40 => some mma | 0x41 => some mma | 0x42 => some mma
      | 0x43 => some drain | 0x44 => some drain | 0x45 => some drain
      | 0x46 => some copy | 0x47 => some copy
      | 0x48 => some [(48, 16), (0, 9)]
      | _ => none
    | 0x0050 =>
      let vec (imm : List (Nat × Nat)) := some ([(112, 4), (96, 16), (80, 16), (64, 16), (48, 16), (43, 5), (38, 5)] ++ imm)
      match op with
      | 0x4A => vec [(0, 32)] | 0x4B => vec [(0, 38)] | 0x4C => vec [(0, 38)] | 0x4D => vec [(0, 38)]
      | 0x4F => vec [(0, 30)] | 0x50 => vec [(0, 10)] | 0x51 => vec [(0, 16)] | 0x52 => vec [(0, 16)]
      | 0x53 => vec [(0, 16)]
      | _ => if 0x40 ≤ op && op ≤ 0x4E then vec [] else none
    | 0x00C0 =>
      match op with
      | 0x40 => some [(0, 6), (8, 6)]
      | 0x41 => some [(0, 6), (8, 4)]
      | 0x42 => some [(0, 40)]
      | _ => none
    | _ => none

/-- A reserved operand bit is set in a word whose opcode is not reserved. -/
def operandReserved (bt w : Nat) : Bool :=
  match namedBits bt (opcodeOf w) with
  | none => false
  | some fs => fs.foldl (fun acc f => acc - bits w f.1 f.2 * 2 ^ f.1) (w % 2 ^ 120) % 2 ^ 112 != 0

/-- A reserved opcode or flag. -/
def flagReserved (bt w : Nat) : Bool :=
  match namedBits bt (opcodeOf w) with
  | none => true
  | some fs => fs.foldl (fun acc f => acc - bits w f.1 f.2 * 2 ^ f.1) (w % 2 ^ 120) / 2 ^ 112 != 0

/-- Variance class (R189): 0 D, 1 T, 2 B. -/
def wordClass (bt w : Nat) : Nat :=
  match opcodeOf w with
  | 0x04 => 1
  | 0x07 => 1
  | 0x09 => 2
  | 0x41 => if bt = 0x0030 then (if bit w 112 then 1 else 0) else if bt = 0x0040 then (if bit w 118 then 1 else 0) else 0
  | 0x45 => if bt = 0x0030 then 2 else 0
  | 0x46 => if bt = 0x0030 then 2 else 0
  | _ => 0

/-- Does the instruction draw from the take's DRBG instance? -/
def wordTrue (bt w : Nat) : Bool := bt = 0x0030 && (opcodeOf w = 0x45 || opcodeOf w = 0x46)

/-! ### Running order -/

/-- The words a script runs, in order, each LOOP's body repeated at most `cap` times (with fuel). -/
def unroll (cap : Nat) : Nat → List Nat → List Nat
  | 0, _ => []
  | _ + 1, [] => []
  | f + 1, w :: ws =>
    if opcodeOf w = 0x05 then
      let n := bits w 32 16
      let body := unroll cap f (ws.take n)
      (List.replicate (min (bits w 0 32) cap) body).flatten ++ unroll cap f (ws.drop n)
    else w :: unroll cap f ws

/-- The words up to the first END, END included. -/
def untilEnd : List Nat → List Nat
  | [] => []
  | w :: ws => if opcodeOf w = 0x01 then [w] else w :: untilEnd ws

def runOrder (cap : Nat) (ws : List Nat) : List Nat := untilEnd (unroll cap (ws.length + 1) ws)

/-- LOOP rules of R191: counts and bodies at least 1, bodies inside their script and their enclosing loop, at
most four deep. -/
def loopsOk : Nat → Nat → List Nat → Bool
  | 0, _, _ => false
  | _ + 1, _, [] => true
  | f + 1, depth, w :: ws =>
    if opcodeOf w = 0x05 then
      let n := bits w 32 16
      bits w 0 32 != 0 && n != 0 && n ≤ ws.length && depth < 4 &&
        loopsOk f (depth + 1) (ws.take n) && loopsOk f depth (ws.drop n)
    else loopsOk f depth ws

/-- Is a word with opcode `op` inside a LOOP body? -/
def inLoop (op : Nat) : Nat → List Nat → Bool
  | 0, _ => false
  | _ + 1, [] => false
  | f + 1, w :: ws =>
    if opcodeOf w = 0x05 then
      let n := bits w 32 16
      (ws.take n).any (fun x => opcodeOf x == op) || inLoop op f (ws.drop n)
    else inLoop op f ws

/-- Phase marks of a word (R53). -/
def wordMarks (bt w : Nat) : Nat :=
  match opcodeOf w with
  | 0x06 => bits w 0 32
  | 0x41 => if bt = 0x0030 then bits w 80 32 else 0
  | 0x42 => if bt = 0x0030 then bits w 80 32 else 0
  | 0x46 => if bt = 0x0030 then bits w 80 32 else 0
  | _ => 0

/-- Phase marks of a script with LOOP counts expanded (R203). -/
def scriptMarks (bt : Nat) : Nat → List Nat → Nat
  | 0, _ => 0
  | _ + 1, [] => 0
  | f + 1, w :: ws =>
    if opcodeOf w = 0x05 then
      let n := bits w 32 16
      bits w 0 32 * scriptMarks bt f (ws.take n) + scriptMarks bt f (ws.drop n)
    else wordMarks bt w + scriptMarks bt f ws

/-- A script is marking when it contains SWEEP, SWEEP_SYNC, SAMPLE_TRUE or MARK (R203). -/
def marking (bt : Nat) (ws : List Nat) : Bool :=
  ws.any fun w => opcodeOf w = 0x06 ||
    (bt = 0x0030 && (opcodeOf w = 0x41 || opcodeOf w = 0x42 || opcodeOf w = 0x46))

/-- Fixed frames of a script, LOOP counts expanded: FIELD_INIT and every fixed-frame or lattice step (R359). -/
def fixedFrames (bt : Nat) : Nat → List Nat → Nat
  | 0, _ => 0
  | _ + 1, [] => 0
  | f + 1, w :: ws =>
    if opcodeOf w = 0x05 then
      let n := bits w 32 16
      bits w 0 32 * fixedFrames bt f (ws.take n) + fixedFrames bt f (ws.drop n)
    else
      (if bt = 0x0030 then
        (if opcodeOf w = 0x40 then 1
         else if (opcodeOf w = 0x41 || opcodeOf w = 0x42 || opcodeOf w = 0x46) && !bit w 112 then bits w 80 32
         else 0)
       else 0) + fixedFrames bt f ws

end Sys2Proof.Machine
end

