-- ==== Sys2Proof/Machine/Validate.lean ====
section
/-!
DEFINITION. Validation of a call sheet: checks 2 to 14 of R208, the checks before GO (R209), the take's class,
purposes and planned beats. A check answers a refusal code and detail word, or nothing when it passes.
-/

namespace Sys2Proof.Machine

/-! ### What the checks look at -/

/-- A sheet under validation: the device, the device as the sheet's page writes would leave it, the partition,
the sheet, its bytes, the page of each listed block, and the words of each script. -/
structure Val where
  d : Dev
  o : Dev
  p : Port
  cs : CallSheet
  src : Src
  pages : List (Option Page)
  progs : List (Nat × Nat × List Nat)      -- block index, half, words

/-- Pages of a listed block in the partition: as `Dev.blockPage`, the clapper unit's included. -/
def Dev.listPage (d : Dev) (p : Port) (b : Nat × Nat) : Option Page := d.blockPage p b

/-- Bytes of a block's own memory. -/
def Page.ownSize : Page → Nat
  | .tile _ => 0x400000 | .me _ => 0x1000000 | .ve _ => 0x100000 | _ => 0

def mkVal (d : Dev) (p : Port) (src : Src) (cs : CallSheet) : Val :=
  let pages := cs.blocks.map (d.listPage p)
  let progs := cs.scripts.map fun e =>
    let words := match (pages.getD e.blk none) with
      | some .clap => (List.range e.len).map fun i => src.num (e.addr + 16 * i) 16
      | some pg => (List.range e.len).map fun i => d.ld (pg.ownMem + e.addr + 16 * i) 16
      | none => []
    (e.blk, e.half, words)
  ⟨d, d.applyWrites p cs.blocks (cs.writes ++ cs.primary), p, cs, src, pages, progs⟩

def Val.blkType (v : Val) (bi : Nat) : Nat := (v.cs.blocks.getD bi (0, 0)).1
def Val.page (v : Val) (bi : Nat) : Option Page := v.pages.getD bi none

/-- Block-list indices of the sheet's tiles. -/
def Val.tileIdx (v : Val) : List Nat := (List.range v.cs.blocks.length).filter fun i => v.blkType i = 0x0030

def Val.ctx (v : Val) (bi : Nat) : TileCtx :=
  let c := v.o.tileCtx v.p ((v.page bi).map Page.site |>.getD 0)
  { c with t0 := v.cs.stepOrigin, seed := v.cs.seed, tiles := v.cs.tiles }

/-- A refusal code and what the refused check points at. -/
abbrev Refused := Option (Nat × Spot)

/-- Refuse with a code at an entry of a section. -/
def refuse (code sec idx : Nat) : Refused := some (code, .entry sec idx)
/-- Refuse at the first entry of a section for which `bad` holds. -/
def refuseAt (code sec n : Nat) (bad : Nat → Bool) : Refused := (firstBad sec n bad).map fun x => (code, x)

/-- Fold a check over the scripts; a failing one is refused with its script entry. -/
def Val.eachScript (v : Val) (code : Nat) (bad : Nat → Nat → List Nat → Bool) : Refused :=
  refuseAt code 0x03 v.progs.length fun i =>
    let x := v.progs.getD i (0, 0, [])
    bad x.1 x.2.1 x.2.2

/-! ### Check 2: versions -/

/-- Does the sheet use what IKV3 lacks (R413)? The detail names a section and an entry. -/
def Val.newFeatures (v : Val) : Option Spot := firstSome [
  if v.cs.multi then some .sheet else none,
  firstBad 0x02 v.cs.writes.length fun i =>
    let r := v.cs.writes.getD i ⟨0, 0, []⟩
    (v.blkType r.blk = 0x0030 && r.words.zipIdx.any fun x =>
        let o := r.off + 4 * x.2
        (o = 0x100 && bit x.1 1) || (o = 0x12C && (bits x.1 0 2 = 2 || bits x.1 3 13 != 0))) ||
      (v.blkType r.blk = 0x0040 && r.words.zipIdx.any fun x => r.off + 4 * x.2 = 0x100 && bit x.1 1),
  firstBad 0x03 v.progs.length fun i =>
    let x := v.progs.getD i (0, 0, [])
    let bt := v.blkType x.1
    x.2.2.any fun w =>
      let op := opcodeOf w
      op = 0x04 || (bt = 0x0030 && (op = 0x41 || op = 0x46) && bit w 112) ||
        (bt = 0x0040 && (op = 0x48 && bits w 0 9 != 0)) ||
        (bt = 0x0040 && (op = 0x40 || op = 0x41 || op = 0x42) &&
          (bits w 115 2 = 1 || (op = 0x41 && bit w 118) ||
            (0x9 ≤ bits w 73 5 && bits w 73 5 ≤ 0xC) || (0x9 ≤ bits w 68 5 && bits w 68 5 ≤ 0xC))) ||
        (bt = 0x0050 && (0x9 ≤ bits w 43 5 && bits w 43 5 ≤ 0xC || 0x9 ≤ bits w 38 5 && bits w 38 5 ≤ 0xC))]

def Dev.fwSlot (d : Dev) (i : Nat) : FwSlot := if i = 0 then d.ctl.fwA else d.ctl.fwB
def Dev.fwRunning (d : Dev) : Nat := d.rd .fw 0x104 2

/-- Check 2, on the sheet as posted: the majors and the minor that the running image accepts (R407), the host level. -/
def check2 (d : Dev) (p : Port) (s : Src) : Refused :=
  let level := d.rd (mboxPage p) 0x158 0
  let majors := if level = 1 then s.major = 3 else s.major = 3 ∨ s.major = 4
  let run := d.fwSlot d.fwRunning
  if ¬ majors ∨ ¬ bit run.majors s.major ∨ run.minor < s.minor ∨ s.iface = 0 ∨ 3 < s.iface ∨ level < s.iface then some (0x41, .sheet)
  else if level = 2 && bit s.flags 1 then some (0x41, .sheet)
  else none

/-- Remote placement entries are not offered at level 2 (R412). -/
def Val.check2Remote (v : Val) : Refused :=
  if v.d.rd (mboxPage v.p) 0x158 0 = 2 then
    refuseAt 0x41 0x01 v.cs.blocks.length fun i =>
      v.blkType i = 0x0030 && (List.range 128).any fun e =>
        v.cs.tiles ≤ e && v.o.rd (v.ctx i).pg (0x404 + 8 * e) 0 != 0
  else none

/-! ### Check 3: reserved bits and codes -/

/-- Is the word the first of a gateway flow entry (R317)? Its node belongs to check 12 (R10, R208). -/
def flowWord (pg : Page) (o : Nat) : Bool :=
  match pg with
  | .gw _ => 0x10000 ≤ o && o % 16 = 0
  | _ => false

/-- Reserved values a page-write record would place in registers. -/
def Val.badRecord (v : Val) (r : PageRec) : Bool :=
  let pg := match v.page r.blk with
    | some pg => some pg
    | none => if v.blkType r.blk = 0x0030 then some (Page.tile 0) else none
  match pg with
  | none => false
  | some pg => r.words.zipIdx.any fun x =>
    match pageOf (pg.base + r.off + 4 * x.2) with
    | some (pg', o) => wordReserved pg' o x.1 && !(flowWord pg' o)
    | none => false

/-- Route entries a page-write record would place that name a node of a reserved row (R10). -/
def Val.badNode (v : Val) (r : PageRec) : Bool :=
  match v.page r.blk with
  | none => false
  | some pg => r.words.zipIdx.any fun x =>
    match pageOf (pg.base + r.off + 4 * x.2) with
    | some (pg', o) => flowWord pg' o && !rowOk (bits x.1 8 8)
    | none => false

def Val.check3 (v : Val) : Refused := firstSome [
  v.src.reserved.map fun x => (0x42, x),
  refuseAt 0x42 0x02 v.cs.writes.length fun i => v.badRecord (v.cs.writes.getD i ⟨0, 0, []⟩),
  v.eachScript 0x42 fun bi _ ws => ws.any (operandReserved (v.blkType bi)),
  refuseAt 0x42 0x07 v.cs.routes.length fun i =>
    ((v.cs.routes[i]?).map (·.recs) |>.getD []).any v.badRecord]

/-! ### Check 5: ownership -/

/-- Partition of a semaphore (PART_SEMS in force, R287). -/
def Dev.semPart (d : Dev) (s : Nat) : Nat := if s < 4096 then d.rd .part 0x19C (2 * (s / 512)) else 3

/-- Bank of a block that holds byte `o` of its memory: the wide buffer's banks follow the operand buffer's. -/
def Page.bankOf (pg : Page) (o : Nat) : Nat :=
  match pg with
  | .ve _ => o / 0x20000
  | _ => o / 0x40000

def Dev.bankBad (d : Dev) (pg : Page) (k : Nat) : Bool :=
  let b := pg.bank k
  d.rdBool (.vc b.1) (0x100C + 16 * b.2) 16

/-- Local ranges an instruction word addresses outside its block's own memory; all but FETCH_SVC's are DRAM (R79, R137,
R173). -/
def Val.ranges (v : Val) (bi w : Nat) : List (Nat × Nat) :=
  let bt := v.blkType bi
  let op := opcodeOf w
  if op = 0x09 then [(bits w 0 38, 64 * bits w 80 16)]
  else if bt = 0x0030 && op = 0x43 && !bit w 112 then
    let c := v.ctx bi
    [(64 * bits w 48 32, bits w 32 16 * c.param v.o (bits w 0 16) * v.cs.tiles * 64 * bits w 16 16)]
  else if bt = 0x0040 && (op = 0x46 || op = 0x47) then [(bits w 0 38, 256 * bits w 96 16)]
  else if bt = 0x0050 && op = 0x4D then [(bits w 0 38, 64 * bits w 96 16)]
  else []

/-- The ladder record a LADDER_ROUND of a script names: vector engine and record. -/
def Val.ladderOf (v : Val) (bi : Nat) (ws : List Nat) : Option (Ladder × Nat) :=
  match v.page bi with
  | some (.ve e) =>
    (ws.find? fun w => opcodeOf w == 0x53).map fun w =>
      let l : Ladder := ⟨e, 64 * bits w 0 16, [], 0, [], 0, [], [], [], [], [], [], 0⟩
      (l, l.record v.d)
  | _ => none

/-- DRAM ranges of a ladder record (R99, R105, R110). -/
def ladderRanges (w : Nat) : List (Nat × Nat) :=
  (if lrCandMax w = 0 then [] else [(lrPoolBase w, 64 * lrStride w * (lrCap w + lrCandMax w))]) ++
  (if lrStatsBase w = 0 then [] else [(lrStatsBase w, 64 + 24 * lrReplicas w)]) ++
  (if lrTraceBase w = 0 then [] else [(lrTraceBase w, 8 * lrReplicas w * lrTraceRing w)])

/-- A deep-mode tile uses memory outside the partition's DRAM, or a base that is not 64-byte aligned (R27, R49). Check
5 refuses both (DEDUCED, log 204). -/
def TileCtx.deepBad (c : TileCtx) (d : Dev) : Bool :=
  let own (a n : Nat) : Bool := d.dramOwned c.p a n
  let pages := (c.vars + 511) / 512
  !own c.deepBase (deepStride * pages) ||
    (List.range pages).any (fun i =>
      let e := c.desc d (512 * i)
      e.listBase % 64 != 0 || e.fieldBase % 64 != 0 || e.stateBase % 64 != 0 ||
        !own e.stateBase ((min 512 (c.vars - 512 * i) * c.reps * stateWidth c.fmt + 7) / 8)) ||
    (List.range c.vars).any fun v =>
      let e := c.desc d v
      !own (e.listBase + 8 * e.start) (8 * e.len) || !own (e.fieldAddr 0 0) (4 * c.reps * e.q)

/-- A write flow of a gateway lands outside the partition (R27, R317). -/
def Val.flowBad (v : Val) (q : Nat) : Bool :=
  (List.range 4096).any fun f =>
    let o := 0x10000 + 16 * f
    let n := v.o.rd (.gw q) (o + 12) 0
    v.o.rd (.gw q) o 0 = 2 && n != 0 && !v.d.rangeOwned v.p (64 * v.o.rd (.gw q) (o + 8) 0) (64 * n)

def Val.check5 (v : Val) : Refused := firstSome [
  refuseAt 0x43 0x01 v.cs.blocks.length fun i =>
    let b := v.cs.blocks.getD i (0, 0)
    if b.1 = 0x0030 then
      (match v.page i with
        | some pg => v.d.rdBool pg 0x014 1
        | none => false)
    else if b.1 = 0x0020 && 11 ≤ b.2 % 16 then false
    else match v.page i with
      | none => true
      | some pg =>
        if pg == .clap then false
        else !v.d.owns v.p pg || v.d.rdBool pg 0x014 1 ||
          (match pg with
            | .link l => v.d.owner (.gw (l / 16)) != v.p.idx
            | _ => false) ||
          (List.range pg.banks).any fun k => !pg.isTile && v.d.bankBad pg k,
  refuseAt 0x43 0x01 v.cs.blocks.length fun i =>
    match v.page i with
    | some (.tile _) => (v.ctx i).deep && (v.ctx i).deepBad v.d
    | some (.gw q) => v.flowBad q
    | _ => false,
  refuseAt 0x43 0x03 v.progs.length fun i =>
    let e := v.cs.scripts.getD i ⟨0, 0, 0, 0⟩
    match v.page e.blk with
    | some .clap => v.src.size < e.addr + 16 * e.len || e.addr % 16 != 0
    | some pg => pg.ownSize < e.addr + 16 * e.len
    | none => false,
  refuseAt 0x43 0x09 v.cs.reels.length fun i =>
    let r := v.cs.reels.getD i (0, 0)
    !v.d.dramOwned v.p r.1 r.2,
  v.eachScript 0x43 fun bi _ ws => ws.any fun w =>
    ((opcodeOf w = 0x07 || opcodeOf w = 0x08) && v.blkType bi != 0x00C0 && v.d.semPart (bits w 0 16) != v.p.idx) ||
      (v.ranges bi w).any (fun r =>
        !(if opcodeOf w = 0x09 then v.d.rangeOwned v.p r.1 r.2 else v.d.dramOwned v.p r.1 r.2)) ||
      (match v.ladderOf bi [w] with
        | some l => (ladderRanges l.2).any fun r => !v.d.dramOwned v.p r.1 r.2
        | none => false)]

/-! ### Checks 6 to 9 -/

/-- Active tiles of the partition (R330). -/
def Dev.partTiles (d : Dev) (p : Port) : Nat := d.rd .ident 0x108 (8 * p.idx)

def Val.check6 (v : Val) : Refused :=
  let a := v.d.partTiles v.p
  if v.cs.tiles = 0 || a < v.cs.tiles || v.cs.gradeTiles != a || v.d.ctl.noGrade.contains v.p then some (0x45, .sheet)
  else refuseAt 0x45 0x01 v.cs.blocks.length fun i =>
    v.blkType i = 0x0030 && v.cs.tiles ≤ (v.cs.blocks.getD i (0, 0)).2

/-- Partition epoch (R405). -/
def Dev.epoch (d : Dev) (p : Port) : Nat := d.rd (mboxPage p) 0x150 0

/-- Blocks whose epoch is not the partition's. -/
def Dev.staleBlock (d : Dev) (p : Port) (pages : List (Option Page)) : Refused :=
  refuseAt 0x44 0x01 pages.length fun i =>
    match pages.getD i none with
    | some pg => pg.hasEpoch && d.rd pg 0x030 0 != d.epoch p
    | none => false

/-- The epochs of header and slate, then those of the blocks. -/
def Val.check7 (v : Val) : Refused :=
  if v.src.num 0x14 4 != v.d.epoch v.p || v.cs.epoch != v.d.epoch v.p then some (0x44, .sheet) else v.d.staleBlock v.p v.pages

/-- Grant of the partition in tokens (R372). -/
def Dev.grant (d : Dev) (p : Port) : Nat := d.rd .sluice 0x11C (16 * p.idx)

/-- Every phase's ceilings fit the grant. -/
def Dev.powerCheck (d : Dev) (p : Port) (cs : CallSheet) : Refused :=
  refuseAt 0x46 0x08 cs.phases fun k => d.grant p < (cs.ceilings.map fun r => r.getD k 0).sum

def Val.check9 (v : Val) : Refused :=
  let place (i l : Nat) : Nat × Nat :=
    let pg := (v.ctx i).pg
    (v.o.rd pg (0x400 + 8 * l) 0, v.o.rd pg (0x404 + 8 * l) 0)
  let lead := v.tileIdx.headD 0
  firstSome (v.tileIdx.map fun i =>
    let l := (v.cs.blocks.getD i (0, 0)).2
    let c := v.ctx i
    match v.cs.counts[l]? with
    | none => refuse 0x47 0x04 l
    | some ns =>
      if c.colours != v.cs.colours || c.inter != v.cs.interleave || (ns.drop c.colours).any (· != 0) ||
          ns.sum != c.vars || (place i l).2 != c.vars ||
          (List.range v.cs.tiles).any (fun e => place i e != place lead e) then refuse 0x47 0x04 l
      else none)

/-! ### Check 10: lattice rules (R87, R88, R99, R109) -/

/-- Reserved bits of the lattice header (R88) set. -/
def latHdrReserved (h : Nat) : Bool :=
  bits h 8 8 != 0 || bits h 27 5 != 0 || bits h 182 10 != 0 || bits h 208 304 != 0

def latHdrBad (h tiles t0 : Nat) : Bool :=
  latHdrReserved h || latCols h = 0 || 16 < latCols h || 8 * latCols h != tiles || t0 < latOrigin h ||
    latPoolBase h % 64 != 0 ||
    (if latRamp h then latRampPoints h = 0 || 1024 < latRampPoints h else latRampPoints h != 0)

/-- Reserved bits of the ladder record (R99) set. -/
def ladderReserved (w : Nat) : Bool :=
  bits w 2 6 != 0 || bits w 14 2 != 0 || bits w 26 6 != 0 || bits w 53 11 != 0 || bits w 77 19 != 0 ||
    bits w 144 16 != 0 || bits w 214 10 != 0 || bits w 262 26 != 0 || bits w 326 26 != 0 || bits w 464 48 != 0

/-- The chain table and member list break R109. The list may reach to the end of the engine's SRAM: DESIGN CHOICE, log
219. -/
def Val.chainsBad (v : Val) (l : Ladder) (w : Nat) : Bool :=
  (List.range (lrChainCount w)).any fun i =>
    let e := v.d.ld (l.base + lrChainOff w + 8 * i) 8
    let first := bits e 0 32
    let n := bits e 32 16
    bits e 48 16 != 0 || n = 0 || 4096 < n || 65536 < first + n ||
      0x100000 < lrMemberOff w + 4 * (first + n) ||
      (List.range n).any fun j =>
        let m := v.d.ld (l.base + lrMemberOff w + 4 * (first + j)) 4
        bits m 16 16 != 0 || 512 * v.cs.tiles ≤ m

def Val.ladderBad (v : Val) (l : Ladder) (w h reps : Nat) : Bool :=
  let g := lrLadders w
  ladderReserved w || lrMode w = 3 || reps % g != 0 || reps / g < 2 || lrInterval w = 0 || 16 < lrCandMax w ||
    lrCap w < 16 || 4096 < lrCap w || 16384 < lrChainCount w ||
    (lrTraceBase w != 0 && lrTraceRing w = 0) || lrReplicas w != reps || lrOrigin w != latOrigin h ||
    lrPoolBase w != latPoolBase h || lrStride w != latSlotStride h ||
    (lrMode w = 1 && latRamp h) || (lrMode w = 2 && !latRamp h) || v.chainsBad l w

/-- Script entries that hold a LADDER_ROUND, once for each. -/
def Val.ladders (v : Val) : List Nat :=
  (v.progs.zipIdx.flatMap fun x =>
    if v.blkType x.1.1 = 0x0050 then
      (x.1.2.2.filter fun w => opcodeOf w == 0x53).map fun _ => x.2
    else [])

def Val.check10 (v : Val) : Refused :=
  if !v.cs.lattice then v.ladders.head?.bind fun i => refuse 0x4C 0x03 i
  else if v.cs.tiles % 8 != 0 || v.tileIdx.isEmpty then some (0x4C, .sheet)
  else
    let lead := v.ctx (v.tileIdx.headD 0)
    let h := lead.latHdr v.d
    firstSome ([
      (v.tileIdx.find? fun i =>
        let c := v.ctx i
        c.fmt != 0 || c.reps % 4 != 0 || c.reps < 4 || c.colours != 4 || !c.inter || c.groups != 0 || c.deep ||
          c.reps != lead.reps || c.latHdr v.d != h).bind fun i => refuse 0x4C 0x01 i,
      if latHdrBad h v.cs.tiles v.cs.stepOrigin then some (0x4C, .sheet) else none,
      v.eachScript 0x4C fun bi _ ws =>
        v.blkType bi = 0x0040 || (v.blkType bi = 0x0030 && ws.any fun w =>
          opcodeOf w = 0x42 || opcodeOf w = 0x46 ||
            (opcodeOf w = 0x41 && (!bit w 115 || bit w 112 || bits w 56 24 < lead.reps / 4))),
      if v.ladders.length != 1 then some (0x4C, .sect 0x03)
      else v.eachScript 0x4C fun bi _ ws =>
        (v.blkType bi = 0x0050 && inLoop 0x53 (ws.length + 1) ws) ||
          (match v.ladderOf bi ws with
            | some l => v.ladderBad l.1 l.2 h lead.reps
            | none => false)] : List Refused)

/-! ### Check 11: instruction rules -/

/-- Codes of R50 an engine operand may use. -/
def meFmtOk (c : Nat) : Bool := (1 ≤ c && c ≤ 4) || (6 ≤ c && c ≤ 14)
/-- The V formats (R174). -/
def vFmtOk (c : Nat) : Bool := c ≤ 8 || c = 0xF || c = 0x10 || c = 0x11

/-- Formats integer accumulation admits (R132). -/
def meIntOk (c : Nat) : Bool := c = 3 || c = 4 || c = 8 || c = 0xC || c = 0xD || c = 0xE

/-- MMA operand rules: R132, R136, R147, R159, R160, R197. -/
def mmaBad (w : Nat) : Bool :=
  let op := opcodeOf w
  let a := bits w 73 5
  let b := bits w 68 5
  let acc := bits w 66 2
  let ga := ((Fmt.ofCode a).getD .f16).group
  let gb := ((Fmt.ofCode b).getD .f16).group
  let oneHot (c : Nat) : Bool := c = 0xD || c = 0xE
  let chunk := bits w 16 16
  let spill := bits w 0 16
  !meFmtOk a || !meFmtOk b || (ga != gb && !oneHot a && !oneHot b) ||
    (accInt acc && (!meIntOk a || !meIntOk b)) || (acc16 acc && min ga gb = 16) ||
    bits w 115 2 = 3 || (bit w 113 && op != 0x42) || (bit w 118 && op != 0x41) ||
    (bits w 115 2 = 1 && (bit w 114 || acc16 acc || ga = 16)) ||
    chunk % 2 = 1 || (chunk != 0 && !acc16 acc) ||
    (chunk != 0 && spill % chunk != 0) || (acc16 acc && chunk = 0 && spill != 0)

/-- Operand-buffer spans a matrix-engine word reads or writes: offset and bytes. A bitmap operand's stored bricks
follow its bitmap (R148). -/
def meSpans (d : Dev) (q w : Nat) : List (Nat × Nat) :=
  let op := opcodeOf w
  if op ≤ 0x42 then
    let m := mmaOf q w
    let ka := up16 (m.fa.pos (m.k - 1) + 1)
    let kb := up16 (m.fb.pos (m.k - 1) + 1)
    let aLen := if m.sparse = 1 then up16 m.m * (m.k / 16) * (16 * m.fa.width + 32)
      else if m.sparse = 2 then (m.bricks + 2047) / 2048 * 256 +
        ((List.range m.bricks).filter (m.present d)).length * (32 * m.fa.width)
      else up16 m.m * ka * (32 * m.fa.width)
    let bLen := up16 m.n * kb * (32 * m.fb.width)
    [(256 * bits w 48 16, aLen), (256 * bits w 32 16, bLen + (if op = 0x41 then up16 m.n * kb * 32 else 0))]
  else if op ≤ 0x45 then
    let m := bits w 103 9 + 1
    let n := bits w 94 9 + 1
    let fo := (Fmt.ofCode (bits w 89 5)).getD .f32
    [(256 * bits w 48 16, (m * n * fo.width + 7) / 8)] ++
      (if op = 0x43 then [] else [(256 * bits w 32 16, 4 * m * n)]) ++
      (if bit w 113 then [(256 * bits w 16 16, 32 * m)] else [])
  else if op = 0x48 then [(256 * bits w 48 16, 8 * bits w 0 9)]
  else if bit w 79 then [] else [(256 * bits w 80 16, 256 * bits w 96 16)]

/-- A matrix-engine word breaks R137, R139 or R197. -/
def Val.meWordBad (v : Val) (q half w : Nat) : Bool :=
  let op := opcodeOf w
  let hm := v.o.halfMode q
  let lo := if hm then half * 0x800000 else 0
  let hi := if hm then (half + 1) * 0x800000 else 0x1000000
  (op ≤ 0x45 && hm && 256 ≤ bits w 94 9) ||
    (op ≤ 0x42 && mmaBad w) ||
    (op = 0x43 && (18 ≤ bits w 89 5 || bits w 32 16 != 0)) ||
    ((op = 0x44 || op = 0x45) && bits w 89 5 != 0) ||
    (op = 0x48 && 256 < bits w 0 9) ||
    ((op = 0x46 || op = 0x47) &&
      (bits w 96 16 = 0 || bits w 0 8 != 0 || bits w 0 38 / 2 ^ 34 != q ||
        (bit w 79 &&
          (let o := 256 * bits w 80 16
           let e := o + 256 * bits w 96 16
           if hm then o < half * 0x200000 || (half + 1) * 0x200000 < e else 0x400000 < e)))) ||
    (meSpans v.d q w).any fun s => s.1 < lo || hi < s.1 + s.2

/-- SRAM spans a vector-engine word reads or writes: offset and bytes. -/
def veSpans (w : Nat) : List (Nat × Nat) :=
  let v : VWord := ⟨w, 0⟩
  let n := v.n
  let out := 64 * bits w 80 16
  let a := 64 * bits w 64 16
  let b := 64 * bits w 48 16
  let sz (f : Fmt) : Nat := (n * f.width + 7) / 8
  let i := 64 * v.imm 0 16
  let two := [(a, sz v.fmt), (b, if v.bcast then 8 else sz v.fmt), (out, sz v.fmtOut)]
  match opcodeOf w with
  | 0x41 => two | 0x42 => two | 0x43 => two | 0x44 => two | 0x45 => two
  | 0x46 => [(a, sz v.fmt), (out, sz v.fmtOut)]
  | 0x47 => [(a, sz v.fmt), (out, 8)]
  | 0x48 => [(a, sz v.fmt), (b, if v.bcast then 8 else sz v.fmt), (out, 8)]
  | 0x49 => [(a, 4 * n), (out, 4 * n)]
  | 0x4A => [(a, 4 * n), (out, (4 * n + 63) / 64 * 64 + 8)] ++ (if v.flag 114 then [] else [(b, 4)])
  | 0x4B => [(a, 4 * n), (b, 4), (out, 4 * n)]
  | 0x4C => (if v.flag 115 then [] else [(a, 4 * n)]) ++ [(out, 4 * n)]
  | 0x4D => [(out, 64 * n)]
  | 0x4E => [(a, 16 * n), (out, 8 * n)]
  | 0x4F => [(a, 4 * n * v.rows), (b, 64), (out, 8 * n), (i, 4 * v.rows)]
  | 0x50 => [(a, (v.imm 0 10 + 1) * ((8 * n + 63) / 64 * 64)), (out, 8 * n)]
  | 0x51 => [(a, sz v.fmt), (b, if v.bcast then 4 else 4 * n), (out, sz v.fmtOut), (i, 8)]
  | 0x52 => [(i, 64)]
  | 0x53 => [(i, 64)]
  | _ => []

/-- Further spans, which EBLOCK's row table and CHECK_ROW's record name as they stand at validation (R180, R183). -/
def veNamed (d : Dev) (e w : Nat) : List (Nat × Nat) :=
  let v : VWord := ⟨w, e⟩
  match opcodeOf w with
  | 0x4F => (v.rowTable d).map fun x => (v.stripBase d x - veSram e, v.stripStride d)
  | 0x52 =>
    let r := d.ld (v.sram (v.imm 0 16)) 64
    let size (n c : Nat) : Nat := (n * ((Fmt.ofCode c).getD .f16).width + 7) / 8
    let k := bits r 64 16
    let cols := bits r 80 10
    [(64 * bits r 0 16, size k (bits r 90 5)), (64 * bits r 16 16, cols * ((size k (bits r 95 5) + 63) / 64 * 64)),
      (64 * bits r 32 16, size cols (bits r 100 5)), (64 * bits r 48 16, 16)]
  | _ => []

/-- SRAM spans a word of a vector engine's script addresses; those of a common instruction too. -/
def veTouches (d : Dev) (e w : Nat) : List (Nat × Nat) :=
  if opcodeOf w = 0x09 then [(64 * bits w 48 32, 64 * bits w 80 16)]
  else if 0x40 ≤ opcodeOf w then veSpans w ++ veNamed d e w
  else []

/-- Formats, flags and operand codes a vector-engine word may not hold (R172 to R174, R178, R180, R182). -/
def veWordBad (w : Nat) : Bool :=
  let op := opcodeOf w
  let f := bits w 43 5
  let fo := bits w 38 5
  let elemwise := 0x41 ≤ op && op ≤ 0x45
  let fmtOk :=
    if elemwise || op = 0x46 || op = 0x47 || op = 0x48 then vFmtOk f && vFmtOk fo
    else if op = 0x4A then (f = 0 || f = 5) && vFmtOk fo
    else if op = 0x4C then (f = 0 || f = 0xF) && vFmtOk fo
    else if op = 0x50 then (f = 0x10 || f = 0x11) && vFmtOk fo
    else if op = 0x51 then (f = 0 || f = 1 || f = 2 || f = 4 || f = 6 || f = 7 || f = 8) && vFmtOk fo
    else f = 0 && fo = 0
  let bcastOk := elemwise || op = 0x48 || op = 0x51
  let accOk := op = 0x4E || op = 0x4F
  let f114 := op = 0x4A || op = 0x4C || op = 0x4D || op = 0x51
  !fmtOk || (bit w 112 && !bcastOk) || (bit w 113 && !accOk) || (bit w 114 && !f114) ||
    (bit w 115 && op != 0x4C) || bits w 96 16 = 0 ||
    16383 < bits w 80 16 || 16383 < bits w 64 16 || 16383 < bits w 48 16 ||
    (op = 0x4C && (bits w 32 6 < 0x20)) || (op = 0x4F && 512 < bits w 96 16) ||
    ((op = 0x4F || op = 0x51 || op = 0x52 || op = 0x53) && 16383 < bits w 0 16) ||
    (op = 0x4D && bits w 0 6 != 0) || (op = 0x4F && 4096 ≤ bits w 16 13) ||
    (veSpans w).any fun s => 0x100000 < s.1 + s.2

/-- The clapper-table entry of a logical identifier, when a script may name it (R199). -/
def Val.clapOf (v : Val) (id : Nat) : Option ClapEnt :=
  if (v.d.clapRange v.p).2 < id + 2 || (v.cs.multi && id = 0) then none
  else match v.cs.claps[id]? with
    | some c => if c.used && c.set < v.cs.sets.length then some c else none
    | none => none

/-- A tile word breaks R79, R80, R193 or R195. -/
def Val.tileWordBad (v : Val) (c : TileCtx) (w : Nat) : Bool :=
  match opcodeOf w with
  | 0x40 => v.cs.lattice && bits w 56 24 != 0
  | 0x43 =>
    c.fmt = 2 || (!bit w 112 && (bits w 80 32 = 0 || bits w 32 16 = 0 ||
      64 * bits w 16 16 < tapSize c.vars (stateWidth c.fmt)))
  | 0x47 => bits w 80 16 = 0 || 32768 < bits w 80 16
  | 0x48 => c.fmt = 2
  | 0x49 => bits w 80 16 % 32 != 0
  | 0x44 => false
  | 0x45 => false
  | op =>
    if op = 0x41 || op = 0x42 || op = 0x46 then
      bit w 115 != v.cs.lattice || bits w 80 32 = 0 || (op = 0x42 && bit w 112) ||
        (if bit w 112 then bits w 56 24 != 0 else bits w 56 24 = 0)
    else false

/-- One word of a script breaks a rule of check 11. -/
def Val.wordBad (v : Val) (bi half w : Nat) : Bool :=
  let bt := v.blkType bi
  let op := opcodeOf w
  flagReserved bt w ||
    (match op with
      | 0x00 => bits w 0 32 = 0
      | 0x02 => (v.clapOf (bits w 0 6)).isNone
      | 0x04 => (v.clapOf (bits w 0 6)).isNone
      | 0x03 => match v.clapOf (bits w 0 6) with
        | some c => !c.cut
        | none => true
      | 0x06 => bits w 0 32 = 0
      | 0x09 =>
        bits w 0 6 != 0 || (match v.page bi with
          | some (.me q) =>
            let hm := v.o.halfMode q
            64 * bits w 48 32 < (if hm then half * 0x800000 else 0) ||
              (if hm then (half + 1) * 0x800000 else 0x1000000) < 64 * (bits w 48 32 + bits w 80 16)
          | some pg => pg.ownSize < 64 * (bits w 48 32 + bits w 80 16)
          | none => false)
      | _ =>
        if op < 0x40 then false
        else if bt = 0x0030 then v.tileWordBad (v.ctx bi) w
        else if bt = 0x0040 then (match v.page bi with
          | some (.me q) => v.meWordBad q half w
          | _ => false)
        else if bt = 0x0050 then veWordBad w
        else if op = 0x40 then (v.clapOf (bits w 0 6)).isNone || v.cs.phases ≤ bits w 8 6
        else if op = 0x41 then
          (match v.clapOf (bits w 0 6) with
            | some c => !c.cut
            | none => true) || v.cs.reels.length ≤ bits w 8 4
        else false)

/-- Order rules over the words as they run: STATE_INIT before FIELD_INIT (R117), banks 6 and 7 while a ladder is
active (R184), COMBINE after a cross-device clapper (R181). -/
def Val.orderBad (v : Val) (bt e : Nat) : List Nat → Bool → Bool → Bool → Bool
  | [], _, _, _ => false
  | w :: ws, inited, ladder, landed =>
    let op := opcodeOf w
    (bt = 0x0030 && (op = 0x44 || op = 0x45) && inited) ||
      (bt = 0x0050 && ladder && (veTouches v.d e w).any fun s => s.2 != 0 && 0xC0000 < s.1 + s.2) ||
      (bt = 0x0050 && op = 0x50 && bits w 0 10 != 0 && !landed) ||
      v.orderBad bt e ws (inited || (bt = 0x0030 && op = 0x40)) (ladder || (bt = 0x0050 && op = 0x53))
        (landed || ((op = 0x02 || op = 0x03 || op = 0x04) &&
          ((v.cs.claps[bits w 0 6]?).map (·.xdev)).getD false))

/-- Does a matrix-engine word accumulate into register `n`? -/
def accumulates (n x : Nat) : Bool := 0x40 ≤ opcodeOf x && opcodeOf x ≤ 0x42 && bits x 117 1 == n

/-- After a clapper marked as a cut point the next accumulation into some register continues one (R164). -/
def cutOpen (isCut : Nat → Bool) : List Nat → Bool
  | [] => false
  | w :: ws =>
    (0x02 ≤ opcodeOf w && opcodeOf w ≤ 0x04 && isCut (bits w 0 6) && [0, 1].any fun n =>
      match ws.find? (accumulates n) with
      | some x => bit x 112
      | none => false) || cutOpen isCut ws

/-- Is an identifier a cut point? -/
def Val.isCut (v : Val) (id : Nat) : Bool := ((v.cs.claps[id]?).map (·.cut)).getD false

/-- May an engine's script hold an open accumulation at a cut point (R164)? One that does not come to every cut point
the take's scripts name has no fixed place there, so it may continue no accumulation at all (DEDUCED, log 205). -/
def Val.cutBad (v : Val) (bi : Nat) (ws : List Nat) : Bool :=
  let cuts := (v.progs.flatMap fun x => x.2.2.filterMap fun w =>
    if 0x02 ≤ opcodeOf w && opcodeOf w ≤ 0x04 && v.isCut (bits w 0 6) then some (bits w 0 6) else none).eraseDups
  cutOpen v.isCut ws ||
    (cuts.any (fun id => !bit (v.cs.sets.getD (((v.cs.claps[id]?).map (·.set)).getD 0) 0) bi) &&
      ws.any fun w => [0, 1].any fun n => accumulates n w && bit w 112)

/-- A script breaks a rule of check 11. -/
def Val.scriptBad (v : Val) (i : Nat) : Bool :=
  let x := v.progs.getD i (0, 0, [])
  let bi := x.1
  let half := x.2.1
  let ws := x.2.2
  let bt := v.blkType bi
  let hm := match v.page bi with
    | some (.me q) => v.o.halfMode q
    | _ => false
  let order := runOrder 2 ws
  (!hm && half != 0) ||
    (List.range i).any (fun j =>
      let y := v.progs.getD j (0, 0, [])
      y.1 == bi && (!hm || y.2.1 == half)) ||
    !(ws.any fun w => opcodeOf w == 0x01) || !loopsOk (ws.length + 1) 0 ws ||
    ws.any (v.wordBad bi half) || v.orderBad bt (match v.page bi with | some (.ve e) => e | _ => 0) order false false false ||
    (bt = 0x0040 && v.cutBad bi order)

def Val.check11 (v : Val) : Refused := firstSome [
  if v.cs.multi then
    (match v.cs.claps[0]? with
      | some c => if c == ⟨false, false, false, false, 0, 0⟩ then none else refuse 0x48 0x05 0
      | none => none)
  else none,
  refuseAt 0x48 0x06 v.cs.sets.length fun i =>
    (List.range v.cs.blocks.length).any fun b =>
      bit (v.cs.sets.getD i 0) b && !v.progs.any fun x => x.1 == b,
  refuseAt 0x48 0x03 v.progs.length v.scriptBad]

/-! ### Check 12: routes -/

/-- Spares that stand in for tiles of the sheet: for each, the home site, the spare and its e (R359). -/
def Dev.standing (d : Dev) (p : Port) (cs : CallSheet) : List (Nat × Nat × Nat) :=
  cs.blocks.filterMap fun b =>
    if b.1 = 0x0030 then
      match d.siteOf p b.2 with
      | some s =>
        match d.record.spareMap.find? (fun x => x.1 == s) with
        | some x =>
          let h := x.2
          let dist := (siteCol s - siteCol h) + (siteCol h - siteCol s) + (siteRow s - siteRow h) + (siteRow h - siteRow s)
          some (h, s, 2 * dist + (if siteCol s / 4 = siteCol h / 4 then 0 else 6))
        | none => none
      | none => none
    else none

/-- Does re-cutting the routes around a failed site find no detour (R359)? The spec lays the detours out entry by
entry nowhere, so whether one is missing is a free value (log 34). -/
def Dev.noDetour (d : Dev) (p : Port) (cs : CallSheet) : Bool :=
  !(d.standing p cs).isEmpty && decide ((Config.freeWord d.free).toNat % 2 = 1)

/-- Does a route set's record stay within slot entries, slot periods and ingress entries (R207)? -/
def routeRecOk (b : Nat × Nat) (r : PageRec) : Bool :=
  r.words.zipIdx.all fun x =>
    let o := r.off + 4 * x.2
    match b.1 with
    | 0x0020 => o = 0x10C || (0x1100 ≤ o && o < 0x2000)
    | 0x00A0 => if b.2 < 64 then o = 0x10C || (0x800 ≤ o && o < 0x1000) else 0x2000 ≤ o && o < 0x2780
    | _ => false

/-- Is a link out of use for a take that begins now (R302, R427)? State codes of LINK_STATUS. -/
def Dev.linkFailed (d : Dev) (i : Nat) : Bool :=
  let st := d.rd (.link i) 0x104 0
  st != 2

/-- Transmit flows named on a link by the sheet's slot tables. -/
def Val.txFlows (v : Val) (i : Nat) : List Nat :=
  (List.range (v.o.rd (.link i) 0x10C 0)).filterMap fun k =>
    if v.o.rd (.link i) (0x800 + 4 * k) 0 != 0 then some (v.o.rd (.link i) (0x800 + 4 * k) 2) else none

/-- Links of the block list. -/
def Val.links (v : Val) : List Nat :=
  v.cs.blocks.filterMap fun b => if b.1 = 0x00A0 && b.2 < 64 then some b.2 else none

/-- Gateways at which a flow forks (R312). -/
def Val.forks (v : Val) (flow : Nat) : Nat :=
  ((List.range 4).filter fun q =>
    2 ≤ (v.links.filter fun i => i / 16 = q && (v.txFlows i).contains flow).length).length

/-- Mask of the listed links that count as failed. -/
def Val.failedMask (v : Val) : Nat :=
  (v.links.filter v.d.linkFailed).foldl (fun acc i => putBits acc i 1 1) 0

def Val.check12 (v : Val) : Refused := firstSome [
  refuseAt 0x49 0x01 v.cs.blocks.length fun i => v.blkType i = 0x0020 && 11 ≤ (v.cs.blocks.getD i (0, 0)).2 % 16,
  refuseAt 0x49 0x01 v.cs.blocks.length fun i => v.blkType i = 0x0030 &&
    ((List.range 128).any fun l => v.cs.tiles ≤ l &&
      (bit (v.o.rd (v.ctx i).pg (0x150 + 4 * (l / 32)) 0) (l % 32) ||
        (!v.cs.multi && v.o.rd (v.ctx i).pg (0x404 + 8 * l) 0 != 0))),
  refuseAt 0x49 0x02 v.cs.writes.length fun i => v.badNode (v.cs.writes.getD i ⟨0, 0, []⟩),
  refuseAt 0x49 0x07 v.cs.routes.length fun i =>
    ((v.cs.routes[i]?).map (·.recs) |>.getD []).any fun r => !routeRecOk (v.cs.blocks.getD r.blk (0, 0)) r,
  if v.links.any (fun i => (v.txFlows i).any fun f => 1 < v.forks f) then some (0x49, .sect 0x02) else none,
  if v.links.any (fun i => !(v.txFlows i).isEmpty &&
      (v.d.rd (.link i) 0x108 20 = 0 || v.d.rd (.link i) 0x108 18 != 0)) then some (0x49, .sect 0x02) else none,
  if v.links.any (fun i => v.d.rd (.link i) 0x104 0 = 4 || v.d.rd (.link i) 0x104 0 = 5) &&
      (coverSet v.cs.routes v.failedMask).isNone then some (0x49, .sect 0x07) else none,
  if v.d.noDetour v.p v.cs then some (0x49, .sheet) else none]

/-! ### Check 13: limits -/

def pad64 (n : Nat) : Nat := (n + 63) / 64 * 64

/-- Payload bytes of a tile's STATES and FIELDS records (R343). -/
def TileCtx.statesBytes (c : TileCtx) : Nat := (c.vars * c.reps * stateWidth c.fmt + 7) / 8
def TileCtx.fieldsBytes (c : TileCtx) (d : Dev) (lat : Bool) : Nat :=
  if lat then 4 * c.vars * c.reps else 4 * c.reps * ((List.range c.vars).map fun v => (c.desc d v).q).sum

/-- Largest reel the take can capture (R338, R343). -/
def Val.reelSize (v : Val) : Nat :=
  let tile (i : Nat) : Nat :=
    let c := v.ctx i
    192 + pad64 c.statesBytes + pad64 (c.fieldsBytes v.d v.cs.lattice) + pad64 (4 * c.reps)
  let lad := match v.progs.findSome? fun x => v.ladderOf x.1 x.2.2 with
    | some l =>
      let r := lrReplicas l.2
      6 * 64 + pad64 (8 * r) + pad64 (2 * r) + pad64 (64 + 32 * lrCap l.2) +
        pad64 (64 * lrStride l.2 * (lrCap l.2 + lrCandMax l.2)) + 128 + pad64 (64 + 24 * r)
    | none => 0
  let drbg := if v.progs.any fun x => x.2.2.any (wordTrue (v.blkType x.1)) then 128 else 0
  256 + (v.tileIdx.map tile).sum + lad + drbg

/-- A resident tile's stores exceed R47: its slots, its group activity, or, as far as the tile page tells their sizes,
the tile's 4 MiB. -/
def TileCtx.storesBad (c : TileCtx) : Bool :=
  let slots := c.vars * c.reps
  let fits (i n : Nat) : Bool := n = 0 || c.store i + n ≤ tileSram c.s + 0x400000
  (if c.fmt = 2 then 32768 else 262144) < slots || 131072 < c.groups * c.reps ||
    !fits 0 (16 * c.vars) || !fits 1 (4 * slots) || !fits 2 ((slots * stateWidth c.fmt + 7) / 8) ||
    !fits 5 (16 * c.groups) || !fits 6 ((c.groups * c.reps + 7) / 8) || !fits 4 (4 * (c.betaOff + c.reps))

def Val.check13 (v : Val) : Refused := firstSome [
  refuseAt 0x4E 0x01 v.cs.blocks.length fun i =>
    v.blkType i = 0x0030 && !v.cs.lattice && !(v.ctx i).deep && (v.ctx i).storesBad,
  if 512 < v.cs.blocks.length then some (0x4E, .sect 0x01) else none,
  if 16 < v.cs.reels.length then some (0x4E, .sect 0x09) else none,
  if 1024 < v.cs.devices.length || ((v.src.sect 0x0A).isSome && v.cs.devices.isEmpty) then some (0x4E, .sect 0x0A)
    else none,
  v.eachScript 0x4E fun bi _ ws =>
    (v.blkType bi = 0x00C0 && 4096 < ws.length) ||
      2 ^ 48 ≤ v.cs.stepOrigin + scriptMarks (v.blkType bi) (ws.length + 1) ws,
  v.eachScript 0x4E fun bi _ ws => v.blkType bi = 0x00C0 && ws.any fun w =>
    opcodeOf w = 0x41 && (v.cs.reels.getD (bits w 8 4) (0, 0)).2 < v.reelSize]

/-! ### Class, purposes, check 14 -/

/-- Class of the take (R189). -/
def Val.cls (v : Val) : Nat :=
  (v.progs.flatMap fun x => x.2.2.map (wordClass (v.blkType x.1))).foldl max 0

def Val.check14 (v : Val) : Refused :=
  if v.cls = 2 && (!v.d.rdBool .entCell 0x104 8 || v.d.rdBool .entCell 0x104 11) then
    refuse 0x4A 0x03 ((v.progs.findIdx? fun x => x.2.2.any fun w => wordClass (v.blkType x.1) w == 2).getD 0)
  else none

/-- Purposes a SWEEP or SWEEP_SYNC word draws with, by the kinds of the tile's variables (R116). -/
def TileCtx.purposes (c : TileCtx) (d : Dev) (lattice : Bool) (w : Nat) : List Nat :=
  let spin := if bit w 113 then 0x01 else 0x00
  if lattice then [spin]
  else (List.range c.vars).flatMap fun v =>
    let e := c.desc d v
    match e.kind with
    | 0 => [spin]
    | 1 => if bit w 114 then [0x01, 0x02] else (List.range e.q).map (0x40 + ·)
    | 2 => [0x03]
    | _ => []

/-- Purposes the take's scripts draw with, as the bits of the stream map (R116, R128). -/
def Val.purposes (v : Val) : Nat :=
  let one (bt bi w : Nat) : List Nat :=
    let op := opcodeOf w
    if bt = 0x0030 then
      if op = 0x44 then [0x06]
      else if op = 0x41 || op = 0x42 then (v.ctx bi).purposes v.d v.cs.lattice w
      else []
    else if bt = 0x0050 then
      if op = 0x4B then [0x05] else if op = 0x4C then [bits w 32 6]
      else match v.ladderOf bi [w] with
        | some l => if lrMode l.2 = 1 then [0x04] else []
        | none => []
    else []
  (v.progs.flatMap fun x => x.2.2.flatMap (one (v.blkType x.1) x.1)).foldl (fun acc k => putBits acc k 1 1) 0

/-! ### Planned beats (R25) -/

/-- Planned beats of a word that is neither a clapper nor an accumulation. -/
def Val.wordBeats (v : Val) (bi w ext : Nat) : Nat :=
  let bt := v.blkType bi
  let op := opcodeOf w
  let c := v.ctx bi
  let sel (off : Nat) : Nat := if off = 0xFFFF then c.reps else c.param v.o off
  if op < 0x40 then
    (match op with
      | 0x00 => bits w 0 32
      | 0x06 => 1
      | 0x08 => 1
      | _ => 0)
  else match bt with
    | 0x0030 =>
      (match op with
        | 0x40 => (if v.cs.lattice then c.reps + 128 else bits w 56 24) + ext
        | 0x43 => 1
        | 0x44 => (c.vars * sel (bits w 0 16) + 511) / 512 + 6
        | 0x47 => bits w 80 16 + 4
        | 0x48 => (c.vars * sel (bits w 0 16) + 511) / 512 + 8
        | 0x49 => bits w 80 16 / 32
        | _ => bits w 80 32 * (bits w 56 24 + ext))
    | 0x0040 =>
      if op ≤ 0x42 then 0
      else if op ≤ 0x45 then bits w 103 9 + 5
      else if op = 0x48 then 1
      else (bits w 96 16 + 7) / 8 + 16
    | 0x0050 =>
      let x : VWord := ⟨w, 0⟩
      (match op with
        | 0x40 => x.n
        | 0x4A => 2 * elemBeats x.fmt x.n
        | 0x4D => (x.n + 1) / 2 + (if x.flag 114 then 16 else 8)
        | 0x4E => (x.n + 63) / 64 + 8
        | 0x4F => (x.rows * x.n + 63) / 64 + 8
        | 0x50 => (x.imm 0 10 + 1) * ((x.n + 63) / 64) + 8
        | 0x52 =>
          let r := v.d.ld (veSram (match v.page bi with | some (.ve e) => e | _ => 0) + 64 * x.imm 0 16) 64
          (bits r 80 10 + 127) / 128 * ((bits r 64 16 + 7) / 8) + 16
        | 0x53 => 1
        | _ => elemBeats x.fmt x.n)
    | _ => 0

/-- A script of the plan: its index, its count, where its registers' spills stand (R157), and the words ahead. -/
structure Plan where
  idx : Nat
  count : Nat
  regs : Tbl AccTime
  words : List Nat

/-- Beats of a word, with its registers afterwards. -/
def Val.cost (v : Val) (ext : Nat) (x : Plan) (w : Nat) : Nat × Tbl AccTime :=
  let bi := (v.progs.getD x.idx (0, 0, [])).1
  match v.page bi with
  | some (.me q) =>
    if 0x40 ≤ opcodeOf w && opcodeOf w ≤ 0x42 then
      let m := mmaOf q w
      let r := m.timing (m.groupCount v.d) x.count (tget ⟨0, 0, false⟩ x.regs m.reg)
      (r.1, tput x.regs m.reg r.2)
    else (v.wordBeats bi w ext, x.regs)
  | _ => (v.wordBeats bi w ext, x.regs)

/-- Run a script to its next clapper, the identifier with it. -/
def Val.toClapper (v : Val) (ext endId i : Nat) : Nat → Tbl AccTime → List Nat → Nat × Plan
  | n, rs, [] => (endId, ⟨i, n, rs, []⟩)
  | n, rs, w :: ws =>
    if opcodeOf w = 0x01 then (endId, ⟨i, n, rs, []⟩)
    else if 0x02 ≤ opcodeOf w && opcodeOf w ≤ 0x04 then (bits w 0 6, ⟨i, n, rs, ws⟩)
    else
      let r := v.cost ext ⟨i, n, rs, []⟩ w
      v.toClapper ext endId i (n + r.1) r.2 ws

/-- The clapper unit's script up to what it waits for: its count, and the identifier it waits at, if any. -/
def unitRun : Nat → List Nat → Nat × List Nat
  | cnt, [] => (cnt, [])
  | cnt, w :: ws => if opcodeOf w = 0x00 then unitRun (cnt + bits w 0 32) ws
    else if opcodeOf w = 0x42 then unitRun cnt ws else (cnt, w :: ws)

/-- The allowance of a cross-device identifier of a take of several devices (R202). -/
def CallSheet.xdevBeats (cs : CallSheet) (id : Nat) : Nat :=
  if cs.multi && 1 < cs.devices.length then
    match cs.claps[id]? with
    | some c => if c.xdev then c.beats else 0
    | none => 0
  else 0

/-- Rendezvous of the members at their clappers; the count at END's release (with fuel). `st` holds each script as it
stands at the clapper it has come to; the unit's, script `ub`, arrives at the identifier its PHASE or CUT names. -/
def Val.rendezvous (v : Val) (ext endId ub : Nat) (need : Nat → List Nat) :
    Nat → List (Nat × Plan) → Nat × List Nat → Nat
  | 0, _, _ => 0
  | f + 1, st, unit =>
    let u := unitRun unit.1 unit.2
    let unitAt (id : Nat) : Bool := match u.2 with
      | w :: _ => if opcodeOf w = 0x40 || opcodeOf w = 0x41 then bits w 0 6 == id else id == endId
      | [] => false
    let ready (id : Nat) : Bool := (need id).all fun i =>
      if i = ub then unitAt id else st.any fun x => x.2.idx == i && x.1 == id
    match (st.map (·.1)).find? ready with
    | none => 0
    | some id =>
      let here := st.filter fun x => x.1 == id
      let m := (here.map (·.2.count)).foldl max (if (need id).contains ub then u.1 else 0)
      let rel := m + 48 + v.cs.xdevBeats id
      if id = endId then rel
      else
        let st' := st.map fun x =>
          if x.1 == id then v.toClapper ext endId x.2.idx rel x.2.regs x.2.words else x
        let waits := match u.2 with
          | w :: _ => (opcodeOf w = 0x40 || opcodeOf w = 0x41) && bits w 0 6 = id && u.1 ≤ rel
          | [] => false
        v.rendezvous ext endId ub need f st' (if waits then (rel, u.2.drop 1) else u)

/-- The planned beat count of a class D take: what its scripts add up to, each clapper lasting 48 beats and, across
devices, its allowance (R25, R201, R202, R204). -/
def Val.planned (v : Val) (ext : Nat) : Nat :=
  let endId := v.d.endId v.p
  let idx := List.range v.progs.length
  let blk (i : Nat) : Nat := (v.progs.getD i (0, 0, [])).1
  let words (i : Nat) : List Nat := runOrder (2 ^ 32) (v.progs.getD i (0, 0, [])).2.2
  let ub := (idx.find? fun i => v.blkType (blk i) = 0x00C0).getD v.progs.length
  let st := (idx.filter (· != ub)).map fun i => v.toClapper ext endId i 0 [] (words i)
  let need (id : Nat) : List Nat :=
    let set := v.cs.sets.getD (((v.cs.claps[id]?).map (·.set)).getD 0) 0
    if id = endId then idx else idx.filter fun i => bit set (blk i)
  v.rendezvous ext endId ub need ((idx.map fun i => (words i).length).sum + 1) st (0, words ub)

/-! ### The checks in order -/

/-- Checks 1 to 4 of a load that meets a partition that is not IDLE: refused with BUSY at the latest (R211). -/
def Dev.busyRefusal (d : Dev) (p : Port) (a : Nat) : Nat × Spot :=
  let s := d.sheetAt a
  match s.check1 with
  | some x => (0x40, x)
  | none =>
    match check2 d p s with
    | some r => r
    | none =>
      let t := if s.major = 3 then srcOf (Config.translate (s.list 0 s.size)) else s
      let v := mkVal d p t t.sheet
      match (if s.major = 3 then v.newFeatures.map (fun x => (0x41, x)) else none) with
      | some r => r
      | none =>
        match firstSome [v.check2Remote, v.check3] with
        | some r => r
        | none => (0x4B, .sheet)

/-- Outcome of validation: the refusal, if any; whether the power plan was accepted (R371); the sheet with what the
firmware adds to it; and the class, once check 11 has admitted every instruction (R189). -/
structure Verdict where
  refusal : Refused
  accepted : Bool
  sheet : CallSheet
  cls : Option Nat := none

/-- The checks of R208 in order, on the sheet a TAKE_LOAD names. -/
def Dev.validate (d : Dev) (p : Port) (a : Nat) : Verdict :=
  let s := d.sheetAt a
  match s.check1 with
  | some x => ⟨some (0x40, x), false, {}, none⟩
  | none =>
    match check2 d p s with
    | some r => ⟨some r, false, s.sheet, none⟩
    | none =>
      let t := if s.major = 3 then srcOf (Config.translate (s.list 0 s.size)) else s
      let cs := { t.sheet with slate := s.list 0x40 64, major := s.major }
      let v := mkVal d p t cs
      let early := firstSome [
        if s.major = 3 then v.newFeatures.map fun x => (0x41, x) else none,
        v.check2Remote, v.check3, if d.dramOwned p a s.size then none else some (0x43, .sheet),
        v.check5, v.check6, v.check7, d.powerCheck p cs]
      match early with
      | some r => ⟨some r, false, cs, none⟩
      | none =>
        let late := firstSome [v.check9, v.check10, v.check11, v.check12, v.check13, v.check14]
        let unit := match v.progs.find? fun x => v.blkType x.1 = 0x00C0 with
          | some x => x.2.2
          | none => []
        ⟨late, true, { cs with
          cls := v.cls, purposes := v.purposes, clapScript := unit,
          planned := if v.cls = 0 then v.planned 0 else 0 },
          match late with
            | some (0x47, _) | some (0x4C, _) | some (0x48, _) => none
            | _ => some v.cls⟩

end Sys2Proof.Machine
end

