-- ==== Sys2Proof/Machine/Clapper.lean ====
section
/-!
DEFINITION. The clapper unit: occurrences and how they resolve (R200 to R204), its script (R198), power phases
(R373, R377, R379), the withheld release of a reel capture (R339), and clappers across devices (R309).
-/

namespace Sys2Proof.Machine

/-! ### Power phases -/

/-- Sum of the ceilings of a phase. -/
def CallSheet.phaseSum (cs : CallSheet) (k : Nat) : Nat := (cs.ceilings.map fun r => r.getD k 0).sum

/-- The thermal factor in twentieths: 20 up to 100 °C, then 120 − Tj (R379). -/
def thermal (tj : Nat) : Nat := if tj ≤ 100 then 20 else 120 - tj

/-- The ceiling of a member of a take in force now: its entry for the phase, scaled to the grant the partition is
scaled to (R377), by the thermal factor (R379). -/
def Dev.ceilingIn (d : Dev) (p : Port) (i : Nat) : Nat :=
  let t := d.take p
  let c := (t.cs.ceilings.getD i []).getD t.phase 0
  let c := match findKey p.idx d.sluice.scale with
    | some g => c * g / t.cs.phaseSum t.phase
    | none => c
  c * thermal (d.rd .sluice 0x120 0) / 20

/-- The engines report their ceilings (R373). -/
def Dev.showCeilings (d : Dev) (p : Port) : Dev :=
  (d.take p).cs.blocks.zipIdx.foldl (fun d x =>
    match d.blockPage p x.1 with
    | some (.me q) => d.wr (.me q) 0x110 0 (d.ceilingIn p x.2)
    | some (.ve e) => d.wr (.ve e) 0x10C 0 (d.ceilingIn p x.2)
    | _ => d) d

/-- Put the ceilings of the take's phase in force, scaled to the grant when their sum exceeds it (R373, R377). -/
def Dev.applyPhase (d : Dev) (p : Port) : Dev :=
  let t := d.take p
  let g := d.grant p
  let scaled := decide (g < t.cs.phaseSum t.phase)
  let was := d.rdBool .sluice 0x104 (4 + p.idx)
  let d := d.wrBool .sluice 0x104 (4 + p.idx) scaled
  let d := { d with sluice := { d.sluice with
    scale := if scaled then tput d.sluice.scale p.idx g else tdel d.sluice.scale p.idx } }
  (if scaled && !was then d.logErr .sluice 0x23 p.idx else d).showCeilings p

/-! ### The clapper unit's script (R198) -/

/-- The unit waits for the next release of an identifier; where its member set names the unit, this is the unit's
arrival (R200; DEDUCED, log 21). -/
def Dev.unitWaits (d : Dev) (p : Port) (k : Nat) (m : Member) (id : Nat) : Dev :=
  if d.inSet p id m then d.arrive p k id else d.setMember p k { m with waiting := true }

/-- PHASE: at the next release of the identifier the plan moves to the phase; the unit waits until then. -/
def doPhase (p : Port) (k : Nat) (d : Dev) : Dev :=
  d.onInstr p k 0x40 Page.isClap fun m w d =>
    (d.unitWaits p k m (bits w 0 6)).modTake p fun t =>
      { t with phaseAt := [(bits w 0 6, bits w 8 6)] }

/-- CUT: at the next release of the cut point a reel is captured into the area; the unit waits until then. -/
def doCut (p : Port) (k : Nat) (d : Dev) : Dev :=
  d.onInstr p k 0x41 Page.isClap fun m w d =>
    (d.unitWaits p k m (bits w 0 6)).modTake p fun t =>
      { t with cutAt := [(bits w 0 6, bits w 8 4)] }

/-- WATCHDOG: the limit in beats from now on; 0 switches it off. CLAP_WATCH shows the limit set last (DESIGN CHOICE,
log 202). -/
def doWatchdog (p : Port) (k : Nat) (d : Dev) : Dev :=
  d.onInstr p k 0x42 Page.isClap fun _ w d =>
    let n := bits w 0 40
    ((d.modTake p fun t => { t with watchdog := n }).wr .clap 0x110 0
      (if n = 0 then d.watchOf p.other else n % 2 ^ 32)).finish p k 0

/-- The unit's PHASE or CUT takes effect at a release: a waiting unit proceeds with the beat count of the release. -/
def Dev.unitProceeds (d : Dev) (p : Port) (beat : Nat) : Dev :=
  match (d.take p).members.findIdx? (·.page == .clap) with
  | some k =>
    match d.member p k with
    | some m => if m.waiting then d.setMember p k { ({ m with waiting := false }.next 0) with beats := beat } else d
    | none => d
  | none => d

/-! ### Occurrences -/

/-- Member indices an identifier waits for: every member at END, else those of its member set. -/
def Dev.needed (d : Dev) (p : Port) (id : Nat) : List Nat :=
  let t := d.take p
  (List.range t.members.length).filter fun k =>
    match t.members[k]? with
    | some m => d.inSet p id m
    | none => false

/-- Members that have arrived at an identifier, with their index. -/
def Take.here (t : Take) (id : Nat) : List (Nat × Member) :=
  (t.members.zipIdx.map fun x => (x.2, x.1)).filter fun x => x.2.arrived == some id

def Dev.complete (d : Dev) (p : Port) (id : Nat) : Bool :=
  let n := d.needed p id
  !n.isEmpty && n.all fun k =>
    match d.member p k with
    | some m => m.arrived == some id
    | none => false

/-- Step counters of the marking members among those that have arrived (R200, R203). -/
def Take.marks (t : Take) (id : Nat) : List Nat := ((t.here id).filter (·.2.marking)).map (·.2.step)

/-- Do the counts of the marking members differ (R200)? -/
def Take.skewed (t : Take) (id : Nat) : Bool :=
  let marks := t.marks id
  marks.any fun m => marks.any (· != m)

/-- Contributions to a reduction that other tiles have not matched: the node raises RED_CLASH (R166, R251). Which
router and slot hold that node the route sets decide; the model takes the router of the lowest missing tile and
a free slot index. Where some tile has sent nothing, no flit has reached the destination, and its block raises
FRAME_SHORT. -/
def Dev.redClash (d : Dev) (p : Port) : Dev :=
  let t := d.take p
  let d := d.modTake p fun t => { t with reds := [] }
  (t.reds.map fun x => (x.slot, x.seq)).eraseDups.foldl (fun d key =>
    let miss := (List.range t.cs.tiles).find? fun l =>
      !t.reds.any fun x => x.slot == key.1 && x.seq == key.2 && x.tile == l
    let none_ := (List.range t.cs.tiles).any fun l => tget 0 t.sends (256 * l + key.1) ≤ key.2
    let d := match miss.bind (d.siteOf p) with
      | some s =>
        let (n, d) := d.fresh
        d.raise p (.router (siteCol s) (siteRow s)) 0x05 (n % 2 ^ 10)
      | none => d
    match (if none_ then sramPage (d.redTarget p key.1) else none) with
    | some pg => if d.owns p pg then frameShort p pg d else d
    | none => d) d

/-- The member whose count sets the beat counter: the largest, on a tie the lowest block-list index (R204). -/
def leading : List (Nat × Member) → Option Member
  | [] => none
  | x :: xs => some <| xs.foldl (fun (m : Member) y =>
      if m.beats < y.2.beats || (m.beats == y.2.beats && y.2.blk < m.blk) then y.2 else m) x.2

/-- Fix the counters of an occurrence (R203, R204): its count is the largest of the arrived members' and `pad` beats,
with the stalls of the member that set it and the step count of the marking members; the take's counter never falls
(DEDUCED, log 203). Where the marking members' counts differ there is no common one to report, and the step is a free
value (log 186). -/
def Dev.fixCounts (d : Dev) (p : Port) (id pad : Nat) : Dev :=
  let t := d.take p
  match leading (t.here id) with
  | none => d
  | some m =>
    let (step, d) := if t.skewed id then (let (n, d) := d.fresh; (n % 2 ^ 48, d)) else (((t.marks id).head?).getD t.step, d)
    let beat := (m.beats + pad) % 2 ^ 64
    d.modTake p fun t => { t with
      beat := max t.beat beat
      fixed := tput t.fixed id beat
      refresh := (t.refresh + m.refresh) % 2 ^ 64
      retry := (t.retry + m.retry) % 2 ^ 64
      step := step }

/-- Another release of an identifier: CLAP_REL_CNT, the pending bit, and the count a pump's WAIT watches. -/
def Dev.countRelease (d : Dev) (p : Port) (id : Nat) : Dev :=
  let i := (d.clapRange p).1 + id
  let d := (d.bump .clap 0x040 1).setPend p id false
  { d with rels := tput d.rels i (tget 0 d.rels i + 1) }

/-- A member as an occurrence releases: every member that does not mark takes the step count (R203); an arrived one
goes on with the occurrence's beat count. -/
def Member.released (m : Member) (id endId beat step : Nat) : Member :=
  let m := { m with step := if m.marking then m.step else step }
  if m.arrived = some id then
    let m := { m with arrived := none, beats := beat, refresh := 0, retry := 0 }
    if id = endId then { m with ended := true } else m.next 0
  else m

/-- Release an occurrence whose counters are fixed: members go on with the common count, phases move, END ends the
take (R200 to R204). -/
def Dev.releaseOcc (d : Dev) (p : Port) (id : Nat) : Dev :=
  let t := d.take p
  let beat := tget t.beat t.fixed id
  let first := ((t.here id).map (·.2.beats)).foldl min beat
  let d := d.countRelease p id
  let d := if d.rd .clap 0x050 0 < beat - first then d.wr .clap 0x050 0 (beat - first) else d
  let members := t.members.map fun m => m.released id (d.endId p) beat t.step
  let d := t.members.foldl (fun d m => if m.marking then d else d.showStep m.page t.step) d
  let d := d.modTake p fun t => { t with members := members, occ := tput t.occ id (tget 0 t.occ id + 1),
                                         xsent := t.xsent.erase id, withheld := none }
  let d := match t.phaseAt with
    | (j, ph) :: _ =>
      if j = id then
        ((d.modTake p fun t => { t with phase := ph, phaseAt := [] }).applyPhase p).unitProceeds p beat
      else d
    | [] => d
  let d := match t.cutAt with
    | (j, _) :: _ =>
      if j = id then (d.modTake p fun t => { t with cutAt := [] }).unitProceeds p beat else d
    | [] => d
  if id = d.endId p then
    -- R214 names no detail for DONE (log 184).
    let (n, d) := d.fresh
    d.endTake p 0 (n % 2 ^ 32)
  else d.reportCounts p

/-- The take stops at an occurrence (R20, R200). -/
def Dev.stopOcc (d : Dev) (p : Port) (id status : Nat) : Dev := d.endTake p status id

/-- Does a capture hold the release back: the occurrence is the cut point a CUT waits for, and every member came
to it by CLAP_CUT (R338)? -/
def Dev.captures (d : Dev) (p : Port) (id : Nat) : Option Nat :=
  let t := d.take p
  match t.cutAt with
  | (j, area) :: _ =>
    if j = id && ((t.cs.claps[id]?).map (·.cut)).getD false &&
      (t.here id).all (fun x => x.2.page == .clap || opcodeOf (d.scriptWord t x.2 x.2.pc) == 0x03) then some area else none
  | [] => none

/-- Release, or withhold the release for a capture (R339). -/
def Dev.releaseOrHold (d : Dev) (p : Port) (id : Nat) : Dev :=
  match d.captures p id with
  | some area => d.modTake p fun t => { t with withheld := some (id, area) }
  | none => d.releaseOcc p id

/-! ### Across devices (R202, R309) -/

/-- Does an identifier join other devices? -/
def Take.isXdev (t : Take) (id : Nat) : Bool :=
  t.cs.multi && 1 < t.cs.devices.length && (id == 0 || ((t.cs.claps[id]?).map (·.xdev)).getD false)

/-- The release of the start occurrence: scripts begin (R211). -/
def Dev.releaseStart (d : Dev) (p : Port) : Dev :=
  (d.countRelease p 0).modTake p fun t => { t with started := true, occ := tput t.occ 0 1, xsent := t.xsent.erase 0 }

/-- The beats a cross-device release takes beyond its allowance count as retry stall (R202); how many is timing: a
free value. -/
def Dev.linger (d : Dev) (p : Port) (id : Nat) : Dev :=
  let (n, d) := d.fresh
  d.modTake p fun t =>
    let beat := (tget t.beat t.fixed id + n % 2 ^ 32) % 2 ^ 64
    { t with beat := max t.beat beat, fixed := tput t.fixed id beat, retry := (t.retry + n % 2 ^ 32) % 2 ^ 64 }

/-- Root: once every device has sent its arrival or stop, send the decision to every device and act on it. -/
def Dev.rootDecides (d : Dev) (p : Port) (id : Nat) : Dev :=
  let t := d.take p
  let ms := t.xmsgs.filter (·.id == id)
  let n := t.cs.devices.length
  if !(List.range n).all (fun k => ms.any (·.sender == k)) then d
  else
    let bad := ms.any fun m => m.kind == 0 &&
      (m.takeId != t.cs.takeId || m.occ != tget 0 t.occ id || ms.any fun x => x.kind == 0 && x.step != m.step)
    let d := if bad then d.logErr .clap 0x40 id else d
    let stat := (ms.filter (·.kind == 2)).map (·.status) ++ (if bad then [0x04] else [])
    let d := d.modTake p fun t => { t with xmsgs := t.xmsgs.filter (·.id != id) }
    match stat with
    | [] =>
      let d := forN n (fun k d => if k = 0 then d else d.sendClap p k id 1 0) d
      if id = 0 && !t.started then d.releaseStart p else (d.linger p id).releaseOrHold p id
    | s :: ss =>
      let st := ss.foldl min s
      let d := forN n (fun k d => if k = 0 then d else d.sendClap p k id 2 st) d
      d.stopOcc p id st

/-- This device's own arrival (kind 0) or stop (kind 2) at a cross-device occurrence. -/
def Dev.localDone (d : Dev) (p : Port) (id kind status : Nat) : Dev :=
  let t := d.take p
  let me := d.logicalDev t
  let d := d.modTake p fun t => { t with xsent := id :: t.xsent }
  if me = 0 then
    let msg : XMsg := ⟨id, kind, status, 0, t.step, t.cs.takeId, tget 0 t.occ id⟩
    (d.modTake p fun t => { t with xmsgs := t.xmsgs ++ [msg] }).rootDecides p id
  else d.sendClap p 0 id kind status

/-- GO of a multi-device take: arrive at the start occurrence (R211). -/
def Dev.startOcc (d : Dev) (p : Port) : Dev :=
  if (d.take p).isXdev 0 then ((d.modTake p fun t => { t with started := false }).setPend p 0 true).localDone p 0 0 0
  else if (d.take p).cs.multi then d.releaseStart p
  else d

/-! ### Resolution -/

/-- Beats from the last arrival to the release (R201): 48 in a take of class D, and across devices its allowance
(R202); at CLAP_EARLY and in classes T and B as soon as the tree delivers it, at most those: a free value. -/
def Dev.clapBeats (d : Dev) (p : Port) (id : Nat) : Nat × Dev :=
  let t := d.take p
  let early := (t.here id).any fun x => opcodeOf (d.scriptWord t x.2 x.2.pc) == 0x04
  let last := 48 + t.cs.xdevBeats id
  if t.cs.cls = 0 && !early then (last, d)
  else
    let (n, d) := d.fresh
    (n % (last + 1), d)

/-- Parity of the arrival and release lines (R352): an armed injection in the clapper unit fires at the next
message; a lasting one loses the column of the first member's cluster node. -/
def Dev.clapCheck (d : Dev) (p : Port) (id : Nat) : Dev :=
  let (m, d) := d.fire .clap
  if m = 0 then d
  else if m = 1 then
    let t := d.take p
    let d := d.retryTransient .clap
    match leading (t.here id), (t.here id).head? with
    | some _, some (k, x) => d.setMember p k { x with beats := x.beats + 4, retry := x.retry + 4 }
    | _, _ => d
  else
    let col := match ((d.take p).here id).head? with
      | some (_, x) => (match x.page with
        | .tile s => siteCol s | .me q => 4 * q + 2 | .ve e => veCol e | _ => 0)
      | none => 0
    (d.retryLasting .clap).modTake p fun t =>
      { t.flag .clap with stops := { t.stops with lost := true }, retire := t.retire ++ [.column col] }

/-- No member of the take can go on by itself: each has arrived, ended, or waits. -/
def Take.stuck (t : Take) : Bool := t.members.all fun m => m.arrived.isSome || m.ended || m.waiting

/-- Is it for an identifier to resolve: its members have all arrived (R200); or a stop cause is present, a member has
arrived, and no member of the take can go on by itself (DEDUCED from R213, log 23): after TAKE_ABORT, once none is
inside an instruction. -/
def Dev.resolves (d : Dev) (p : Port) (id : Nat) : Bool :=
  let t := d.take p
  d.complete p id ||
    (t.stops.status != 0 && !(t.here id).isEmpty && (t.stuck || (t.halting && t.members.all (·.sweep.isNone))))

/-- Is a round notice that rewrites rungs and β still on its way to a tile that waits at the identifier (R102)? -/
def Dev.roundHolds (d : Dev) (p : Port) (id : Nat) : Bool :=
  let t := d.take p
  match t.ladder with
  | some l => d.noticeMode p l == 1 && t.notices.any fun n =>
      match d.siteOf p n.1 with
      | some s => (t.here id).any fun x => x.2.page == .tile s
      | none => false
  | none => false

/-- OCCURRENCE_RELEASE: an occurrence resolves, as a stop with a stop cause present (R20, R200). A round clapper waits
until its tiles have applied the notice (R102). -/
def doOccurrenceRelease (p : Port) (id : Nat) (d : Dev) : Dev :=
  let t := d.take p
  if !d.running p || !t.started || t.withheld.isSome || t.xsent.contains id || !d.resolves p id || d.roundHolds p id
  then d
  else
    let d := (d.clapCheck p id).redClash p
    let d := if t.skewed id then
        (d.logErr .clap 0x40 id).modTake p fun t => { t.flag .clap with stops := { t.stops with clap := true } }
      else d
    let d := d.routeSwitch p
    let (n, d) := d.clapBeats p id
    let d := d.fixCounts p id n
    let st := (d.take p).stops.status
    if t.isXdev id then d.localDone p id (if st = 0 then 0 else 2) st
    else if st = 0 then d.releaseOrHold p id
    else d.stopOcc p id st

/-- WATCHDOG_EXPIRY: an occurrence has stayed unreleased beyond the limit since its first arrival (R198). -/
def doWatchdogExpiry (p : Port) (id : Nat) (d : Dev) : Dev :=
  let t := d.take p
  if !d.running p || t.watchdog = 0 || t.withheld.isSome || (t.here id).isEmpty then d
  else
    let d := d.logErr .clap 0x41 id
    let d := d.modTake p fun t => { t.flag .clap with stops := { t.stops with timeout := true } }
    let first := ((t.here id).map (·.2.beats)).foldl min (((t.here id).head?.map (·.2.beats)).getD 0)
    let d := d.fixCounts p id 0
    let d := d.modTake p fun t => { t with beat := max t.beat (first + t.watchdog) }
    let st := (d.take p).stops.status
    if t.isXdev id && !t.xsent.contains id then d.localDone p id 2 st else d.stopOcc p id st

/-- The running take a clapper message belongs to: by the identifier's port, that of the take with its take_id. -/
def Dev.clapTake (d : Dev) (takeId : Nat) : Option Port :=
  allPorts.find? fun p => d.running p && (d.take p).cs.takeId == takeId

/-- The root receives an arrive message (R309). A message whose take_id names no running take goes to the
running multi-device take of the port the identifier's link belongs to, where it is a mismatch. -/
def arriveAt (p : Port) (id sender step takeId occ : Nat) (d : Dev) : Dev :=
  let t := d.take p
  if d.running p && t.isXdev id && d.logicalDev t = 0 then
    (d.modTake p fun t => { t with xmsgs := t.xmsgs ++ [⟨id, 0, 0, sender, step, takeId, occ⟩] }).rootDecides p id
  else d

/-- A device receives the root's release (R309). -/
def releaseAt (p : Port) (id : Nat) (d : Dev) : Dev :=
  let t := d.take p
  if d.running p && t.isXdev id && t.xsent.contains id && d.logicalDev t != 0 then
    if id = 0 && !t.started then d.releaseStart p else (d.linger p id).releaseOrHold p id
  else d

/-- A stop message reaches the root, which decides when every device has sent, or a device, which stops
its occurrence (R309). -/
def stopAt (p : Port) (id sender status : Nat) (d : Dev) : Dev :=
  let t := d.take p
  if d.running p && t.isXdev id then
    if d.logicalDev t = 0 then
      (d.modTake p fun t => { t with xmsgs := t.xmsgs ++ [⟨id, 2, status, sender, t.step, t.cs.takeId, 0⟩] }).rootDecides p id
    else d.stopOcc p id status
  else d

end Sys2Proof.Machine
end

