-- ==== Sys2Proof/Machine/Take.lean ====
section
/-!
DEFINITION. The take's lifecycle (R207 to R216): mailbox commands, validation, writing, GO, posting, and what every
exit restores (R213, R221, R253).
-/

namespace Sys2Proof.Machine

/-! ### Banks of a take (R221) -/

def bankKey (b : Nat × Nat) : Nat := 256 * b.1 + b.2

/-- Owner code and pump engine in force at a bank. -/
def Dev.bankOwner (d : Dev) (b : Nat × Nat) : Nat × Nat :=
  (d.rd (.vc b.1) (0x1004 + 16 * b.2) 0, d.rd (.vc b.1) (0x1004 + 16 * b.2) 8)

/-- The write step of a bank's pending merge, with which its access completes (R222, R223). -/
def Dev.finishMerge (d : Dev) (b : Nat × Nat) : Dev :=
  match findKey (bankKey b) d.banks.merges with
  | some m =>
    { d.putBytes m.addr m.data with
      banks := { d.banks with merges := tdel d.banks.merges (bankKey b) }
      out := d.out ++ [.bankDone b.1 b.2 m.addr .ok] }
  | none => d

/-- A bank's owner, with no handover in progress. -/
def Dev.setOwner (d : Dev) (b : Nat × Nat) (o : Nat × Nat) : Dev :=
  let vc := Page.vc b.1
  let a := 0x1000 + 16 * b.2
  let d := (d.wr vc a 0 o.1).wr vc a 8 o.2
  ((d.wr vc (a + 4) 0 o.1).wr vc (a + 4) 8 o.2).wr vc (a + 4) 16 0

/-- Give a bank to an owner: what the bank had accepted completes and its handover is over (R220). -/
def Dev.giveBank (d : Dev) (b : Nat × Nat) (o : Nat × Nat) : Dev := (d.finishMerge b).setOwner b o

/-- Banks of the tiles and engines a take lists. -/
def Dev.takeBanks (d : Dev) (p : Port) : List (Nat × Nat) :=
  (d.takePages p).flatMap fun pg => (List.range pg.banks).map pg.bank

/-- Record each owner, wake banks in RET, and hand every bank to the take. -/
def Dev.seizeBanks (d : Dev) (p : Port) : Dev :=
  let bs := d.takeBanks p
  let d := d.modTake p fun t => { t with owners := bs.map fun b =>
    let o := d.bankOwner b
    (bankKey b, o.1 + 8 * o.2) }
  bs.foldl (fun d b =>
    let a := 0x1008 + 16 * b.2
    let d := if d.rd (.vc b.1) a 4 = 1 then (d.wr (.vc b.1) a 0 0).wr (.vc b.1) a 4 0 else d
    (((d.wr (.vc b.1) (0x1000 + 16 * b.2) 0 1).wr (.vc b.1) (0x1000 + 16 * b.2) 8 0).wr
      (.vc b.1) (0x1004 + 16 * b.2) 16 1)) d

/-- The handovers of WRITING are over: the take owns its banks. -/
def Dev.ownBanks (d : Dev) (p : Port) : Dev :=
  (d.take p).owners.foldl (fun d x => d.giveBank (x.1 / 256, x.1 % 256) (1, 0)) d

/-- Write 0 to the slot periods of the listed routers and links (R253). -/
def Dev.clearPeriods (d : Dev) (p : Port) : Dev :=
  (d.takePages p).foldl (fun d pg =>
    match pg with
    | .router _ _ | .link _ => d.wr pg 0x10C 0 0
    | _ => d) d

/-- Restore every recorded owner, clear the guards of the listed vault controllers (R221, R239) and the slot
periods of the listed routers and links (R253). -/
def Dev.restoreUnits (d : Dev) (p : Port) : Dev :=
  let d := (d.take p).owners.foldl (fun d x => d.giveBank (x.1 / 256, x.1 % 256) (x.2 % 8, x.2 / 8)) d
  let d := (d.takePages p).foldl (fun d pg =>
    match pg with
    | .vc c => forN 32 (fun j d => d.wr (.vc c) (0x200 + 16 * j) 0 0) d
    | .ve e => (d.wr (.ve e) 0x104 3 0).wr (.ve e) 0x104 4 0
    | _ => d) (d.clearPeriods p)
  d.modTake p fun t => { t with owners := [], guards := [] }

/-! ### Records (R214, R216) -/

def ccCount (off : Nat) (d : Dev) : Dev := d.bump .cc off 1

/-- The k-th free value from here. -/
def Dev.ahead (d : Dev) (k : Nat) : Nat := (Config.freeWord (d.free + k)).toNat

/-- Post a completion record with no dailies record: a refusal, or a load that was aborted (R208, R211, R213). No
take ran, so R214 gives its reported block, step, beats and dailies address no value, nor a class where no script was
read: each is free (log 184). -/
def Dev.postRefusal (d : Dev) (p : Port) (c : LoadCmd) (status : Nat) (cls : Option Nat) (at_ : Spot) : Dev :=
  let rec_ := leBytes 8 c.takeId ++ leBytes 1 status ++ leBytes 1 (cls.getD (d.ahead 0 % 3)) ++ leBytes 2 0 ++
    leBytes 8 (d.ahead 1) ++ leBytes 4 (at_.word (d.ahead 2)) ++ leBytes 8 (d.ahead 3) ++ leBytes 8 (d.ahead 4) ++
    leBytes 8 (d.ahead 5) ++ leBytes 16 0
  ({ d with free := d.free + 6 }.putBytes c.resultAddr rec_).vector p c.vector

/-- A refused load, counted on the mailbox page and the control complex page. -/
def Dev.refuseLoad (d : Dev) (p : Port) (c : LoadCmd) (r : Nat × Spot) (cls : Option Nat := none) : Dev :=
  ccCount 0x048 ((d.bump (mboxPage p) 0x058 1).postRefusal p c r.1 cls r.2)

/-- The partition's own load or take is over: IDLE, MB_TAKE_ID zero. -/
def Dev.toIdle (d : Dev) (p : Port) : Dev :=
  (((d.setTake p {}).setTakeState p stIdle).wr (mboxPage p) 0x128 0 0).wr (mboxPage p) 0x12C 0 0

/-- The lowest faulted page (R22). -/
def lowestPage : List Page → Option Page
  | [] => none
  | x :: xs => some (xs.foldl (fun m y => if y.base < m.base then y else m) x)

/-- The completion record of a take that ran (R214). Where no block faulted there is none to report, and the two
fields are free (log 184). -/
def Dev.completion (d : Dev) (t : Take) : List Byte :=
  let blk := match lowestPage t.faulted with
    | some pg => leBytes 4 (pg.blkType + pg.blkInstance * 2 ^ 16) ++ leBytes 4 (d.errFirst pg)
    | none => leBytes 8 (d.ahead 0)
  leBytes 8 t.cs.takeId ++ leBytes 1 t.status ++ leBytes 1 t.cs.cls ++ leBytes 2 t.faulted.length ++ blk ++
    leBytes 4 t.stopId ++ leBytes 8 t.step ++ leBytes 8 t.beat ++ leBytes 8 (t.cmd.resultAddr + 64) ++ leBytes 16 0

/-- Counters of a member whose growth since GO the dailies record reports, the retry counters last. -/
def Dev.memberCounts (d : Dev) (pg : Page) : List Nat :=
  ((List.range 10).map fun i => d.rd pg (0x040 + 8 * i) 0) ++ [d.rd pg 0x028 0, d.rd pg 0x02C 0]

/-- Growth of the i-th counter since GO, over the members for which `who` holds. -/
def Dev.grown (d : Dev) (t : Take) (who : Page → Bool) (i : Nat) : Nat :=
  ((t.snapshot.filter fun x => who x.1).map fun x =>
    ((d.memberCounts x.1).getD i 0 + 2 ^ 64 - x.2.getD i 0) % 2 ^ 64).sum

/-- The dailies record (R216). A take without a ladder has no trace and no cistern to describe (log 184). -/
def Dev.dailies (d : Dev) (t : Take) : List Byte :=
  let tile := d.grown t Page.isTile
  let me := d.grown t Page.isMe
  let ve := d.grown t Page.isVe
  let lad := match t.ladder with
    | some l =>
      let w := l.record d
      (lrStatsBase w, lrTraceBase w, l.counts.getD 0 0,
        l.ve + bits w 432 16 * 2 ^ 16 + (l.entries % 2 ^ 16) * 2 ^ 32)
    | none => (0, d.ahead 1, 0, d.ahead 2)
  let net := t.switches % 2 ^ 16 + (t.activeSet % 256) * 2 ^ 16 + (t.spares % 256) * 2 ^ 24 +
    ofSigned 32 (t.planDelta + t.spareDelta) * 2 ^ 32
  let all := fun i => d.grown t (fun _ => true) i
  [t.cs.takeId, t.cs.stepOrigin, t.step, t.beat,
    if t.cs.cls = 0 then ofSigned 64 ((t.cs.planned : Int) + t.planDelta + t.spareDelta) else 0,
    t.refresh, t.retry, tile 0, tile 1, tile 2, tile 3, tile 4, tile 5, tile 6, tile 8, tile 9,
    me 0, me 4, me 7 + ve 2, ve 5, lad.1, lad.2.1, lad.2.2.1, lad.2.2.2, t.drbgBytes, net, t.throttle0,
    all 10 % 2 ^ 32 + (all 11 % 2 ^ 32) * 2 ^ 32].flatMap (leBytes 8) ++ leBytes 32 0

/-! ### Validation and writing -/

/-- Fixed frames of the take's tile script, LOOP counts expanded (R359). -/
def Dev.frames (d : Dev) (p : Port) (cs : CallSheet) : Nat :=
  let e := cs.scripts.find? fun e => (cs.blocks.getD e.blk (0, 0)).1 = 0x0030
  match e with
  | some e =>
    match d.blockPage p (cs.blocks.getD e.blk (0, 0)) with
    | some pg =>
      let ws := (List.range e.len).map fun i => d.ld (pg.ownMem + e.addr + 16 * i) 16
      fixedFrames 0x0030 (ws.length + 1) ws
    | none => 0
  | none => 0

/-- Re-cut the routes around a failed site's router (R359): its slot entries move to the spare's router, which the
spec does not lay out entry by entry, so each field of theirs is a free legal code. -/
def Dev.recut (d : Dev) (h s : Nat) : Dev :=
  let from_ := Page.slot (siteCol h) (siteRow h)
  let to_ := Page.slot (siteCol s) (siteRow s)
  forN (d.rd (.router (siteCol h) (siteRow h)) 0x10C 0) (fun i d =>
    (fieldsAt from_ (0x100 + 4 * i)).foldl (fun d f =>
      if d.rd from_ (0x100 + 4 * i) f.lo = 0 then d
      else
        let (n, d) := d.fresh
        (d.wr from_ (0x100 + 4 * i) f.lo 0).wr to_ (0x100 + 4 * i) f.lo (n % 6)) d) d

/-- The partition's load is refused: record, vector, IDLE. -/
def Dev.refuseOwn (d : Dev) (p : Port) (r : Nat × Spot) (cls : Option Nat := none) : Dev :=
  (d.refuseLoad p (d.take p).cmd r cls).toIdle p

/-- Bytes of the page writes of a sheet. -/
def CallSheet.pageBytes (cs : CallSheet) : Nat := ((cs.writes ++ cs.primary).map fun r => 4 * r.words.length).sum

/-- Has a sheet refused with this code been held against the epochs of its blocks: did it reach check 7 (R208)? -/
def epochHeld (code : Nat) : Bool := !([0x40, 0x41, 0x42, 0x4B, 0x43, 0x45].contains code)

/-- VALIDATION_DONE: the checks of R208 are over. A take_id that differs from the slate's is refused with
BAD_HEADER (R210 names no code). Acceptance of the power plan ends the default budget (R371). -/
def doValidationDone (p : Port) (d : Dev) : Dev :=
  let t := d.take p
  if d.takeState p != stValidating || d.rdBool (.rep p.idx) 0x104 2 then d
  else
    let a := t.cmd.csAddr
    let src := d.sheetAt a
    if src.check1.isNone && src.takeId != t.cmd.takeId then d.refuseOwn p (0x40, .sheet)
    else
      let v := d.validate p a
      let d := if v.accepted then
          (d.wr .sluice 0x104 0 0).wr .sluice 0x114 16 (d.rd .sluice 0x114 0)
        else d
      match v.refusal with
      | some r => (if epochHeld r.1 then d.showStale p v.sheet else d).refuseOwn p r v.cls
      | none =>
          let d := d.showStale p v.sheet
          let cs := v.sheet
          let st := d.standing p cs
          let d := if st.isEmpty then d else d.fresh.2
          let ext := (st.map fun x => x.2.2).sum
          let d := d.modTake p fun t => { t with
            cs := cs, clapScript := cs.clapScript, frameExt := ext, spares := st.length,
            spareDelta := (ext * d.frames p cs : Nat) }
          let d := (d.setTakeState p stWriting).seizeBanks p
          let d := d.applyWrites p cs.blocks (cs.writes ++ cs.primary)
          let d := st.foldl (fun d x => d.recut x.1 x.2.1) d
          let d := d.bump .cc 0x058 cs.pageBytes
          match firstSome ((cs.writes ++ cs.primary).map fun r => d.blockPage p (cs.blocks.getD r.blk (0, 0))) with
          | some pg => d.ctrlNet pg
          | none => d

/-! ### GO -/

/-- The members of a take at GO. -/
def Dev.membersOf (d : Dev) (p : Port) (cs : CallSheet) : List Member :=
  cs.scripts.filterMap fun e =>
    match d.blockPage p (cs.blocks.getD e.blk (0, 0)) with
    | some pg =>
      let base := pg.ownMem + e.addr
      let ws := if pg == .clap then cs.clapScript else (List.range e.len).map fun i => d.ld (base + 16 * i) 16
      some { blk := e.blk, page := pg, half := e.half, base := base, len := e.len, pc := 0, loops := [],
             arrived := none, ended := false, step := cs.stepOrigin, marking := marking pg.blkType ws,
             beats := 0, refresh := 0, retry := 0, sweep := none, waiting := false }
    | none => none

/-- GO: every unit of the take is a member, its counters are noted, the tiles start afresh. -/
def Dev.go (d : Dev) (p : Port) : Dev :=
  let t := d.take p
  let cs := t.cs
  let pages := d.takePages p
  let d := pages.foldl (fun d pg =>
    let d := d.setInTake pg true
    match pg with
    | .tile s =>
      let d := ((d.wr pg 0x104 1 0).wr pg 0x104 6 0).showStep pg cs.stepOrigin
      let saved := if d.rdBool pg 0x100 2 then (d.tileCtx p s).fieldWords cs.lattice d else []
      d.setTile s { saved := saved }
    | .link l => d.modLink l fun s => { s with txPos := 0, rxPos := 0, flows := [] }
    | .gw q => d.modGw q fun g => { g with offs := [], segs := [], forks := [] }
    | .vc c => { d with banks := { d.banks with
        portBeat := d.banks.portBeat.filter (·.1 / 32 != c), ibBeat := d.banks.ibBeat.filter (·.1 / 2048 != c) } }
    | _ => d) d
  let guards := (List.range 512).filter fun v =>
    pages.contains (.vc (v / 32)) && d.rdBool (.vc (v / 32)) (0x200 + 16 * (v % 32)) 0
  let fails := (t.links.filter d.linkFailed).foldl (fun acc i => putBits acc i 1 1) 0
  let words := cs.scripts.flatMap fun e =>
    match d.blockPage p (cs.blocks.getD e.blk (0, 0)) with
    | some (.tile s) => (List.range e.len).map fun i => d.ld (tileSram s + e.addr + 16 * i) 16
    | _ => []
  let ms := d.membersOf p cs
  let snap := pages.map fun pg => (pg, d.memberCounts pg)
  let d := d.modTake p fun t => { t with
    members := ms, step := cs.stepOrigin, guards := guards, failedLinks := fails, snapshot := snap,
    usesDrbg := words.any (wordTrue 0x0030) }
  let d := (d.setTakeState p stRunning).reportCounts p
  ((d.wr .clap 0x110 0 (d.watchOf p.other)).applyPhase p).startOcc p

/-- The checks before GO (R209), then GO or the refusal. -/
def Dev.tryGo (d : Dev) (p : Port) : Dev :=
  let t := d.take p
  match firstSome [d.staleBlock p (t.cs.blocks.map (d.blockPage p)), d.powerCheck p t.cs] with
  | some r =>
    ((if r.1 = 0x44 then d.showStale p t.cs else d).restoreUnits p).refuseOwn p r (some t.cs.cls)
  | none => d.go p

/-- WRITING_DONE: every page is written and every handover over. -/
def doWritingDone (p : Port) (d : Dev) : Dev :=
  if d.takeState p != stWriting then d
  else
    let d := d.ownBanks p
    if (d.take p).cmd.hold then d.setTakeState p stLoaded else d.tryGo p

/-! ### Mailbox commands (R210, R444) -/

def mbOf (m : Nat) : LoadCmd :=
  { hold := bit m 8, vector := bits m 16 16, csAddr := bits m 64 64, resultAddr := bits m 128 64, takeId := bits m 192 64 }

/-- Byte offset of the first reserved bit or code of a command (R210). -/
def mbReserved (m : Nat) : Option Nat :=
  if bits m 0 8 = 0 || 4 < bits m 0 8 then some 0
  else if bits m 9 7 != 0 then some 1
  else if 2047 < bits m 16 16 then some 2
  else if bits m 32 32 != 0 then
    some (if bits m 32 8 != 0 then 4 else if bits m 40 8 != 0 then 5 else if bits m 48 8 != 0 then 6 else 7)
  else if bits m 0 8 = 1 && bits m 64 6 != 0 then some 8
  else none

def Dev.mbLog (d : Dev) (p : Port) (code detail : Nat) : Dev := d.logErr (mboxPage p) code detail

/-- TAKE_LOAD as the control complex takes it. -/
def Dev.takeLoad (d : Dev) (p : Port) (c : LoadCmd) : Dev :=
  let d := ccCount 0x040 d
  if d.takeState p = stIdle then
    let d := d.setTake p { cmd := c }
    (d.setTakeState p stValidating).wr64 (mboxPage p) 0x128 c.takeId
  else d.refuseLoad p c (d.busyRefusal p c.csAddr)

/-- TAKE_ABORT: a load ends with ABORTED; a running take stops at its next occurrence; after that there is no
occurrence left (R213). -/
def Dev.takeAbort (d : Dev) (p : Port) : Dev :=
  let st := d.takeState p
  let t := d.take p
  if st = stRunning then d.modTake p fun t => { t with stops := { t.stops with abort := true } }
  else if st = stValidating then
    ((d.postRefusal p t.cmd 0x07 none .sheet).bump (mboxPage p) 0x050 1).toIdle p
  else if st = stWriting || st = stLoaded then
    (((d.restoreUnits p).postRefusal p t.cmd 0x07 (some t.cs.cls) .sheet).bump (mboxPage p) 0x050 1).toIdle p
  else d

/-- The control complex takes a command from the mailbox. -/
def Dev.mbTake (d : Dev) (p : Port) (m : Nat) : Dev :=
  let c := bits m 0 8
  let st := d.takeState p
  if c = 1 then d.takeLoad p (mbOf m)
  else if st = stIdle || ((c = 2 || c = 4) && st != stLoaded) then
    if st != stIdle && bits m 192 64 != d.rd64 (mboxPage p) 0x128 then d.mbLog p 0x22 c
    else d.mbLog p 0x23 (c + st * 2 ^ 8)
  else if bits m 192 64 != d.rd64 (mboxPage p) 0x128 then d.mbLog p 0x22 c
  else if c = 2 then
    if d.rdBool (.reel p.idx) 0x104 0 then d else d.tryGo p
  else if c = 3 then d.takeAbort p
  else (d.restoreUnits p).toIdle p

/-- Post a 32-byte command (R444). During a firmware activation it is held in the queue (R410); otherwise the
control complex takes it at once. -/
def Dev.mbPost (d : Dev) (p : Port) (m : Nat) : Dev :=
  let pg := mboxPage p
  if d.rd pg 0x120 0 = 4 then d.mbLog p 0x20 (bits m 0 8)
  else match mbReserved m with
    | some o => d.mbLog p 0x21 o
    | none =>
      let a := bits m 128 64
      if bits m 0 8 = 1 && (a % 64 != 0 || !d.dramOwned p a 320) then d.mbLog p 0x24 (bits a 6 24)
      else
        let d := d.bump pg 0x040 1
        if d.rdBool .fw 0x104 1 then
          let d := { d with ctl := { d.ctl with mbox := d.ctl.mbox ++ [(p, m)] } }
          (d.wr pg 0x120 0 (d.rd pg 0x120 0 + 1)).wr pg 0x120 3 1
        else d.mbTake p m

/-- The held commands are processed in arrival order (R410). -/
def Dev.mbRelease (d : Dev) : Dev :=
  let q := d.ctl.mbox
  let d := { d with ctl := { d.ctl with mbox := [] } }
  let d := allPorts.foldl (fun d p => (d.wr (mboxPage p) 0x120 0 0).wr (mboxPage p) 0x120 3 0) d
  q.foldl (fun d x => d.mbTake x.1 x.2) d

/-- The mailbox rows: the command's 32 bytes with the row's code. -/
def doTakeLoad (p : Port) (m : Nat) (d : Dev) : Dev := d.mbPost p (putBits m 0 8 1)
def doTakeGo (p : Port) (m : Nat) (d : Dev) : Dev := d.mbPost p (putBits m 0 8 2)
def doTakeAbort (p : Port) (m : Nat) (d : Dev) : Dev := d.mbPost p (putBits m 0 8 3)
def doTakeUnload (p : Port) (m : Nat) (d : Dev) : Dev := d.mbPost p (putBits m 0 8 4)

/-! ### Posting (R212, R214, R216, R353) -/

/-- What POSTING does at the take itself: after the last cistern insertion, owners, guards and slot periods are restored, the records posted,
and units waiting for it retired. -/
def posting (p : Port) (d : Dev) : Dev :=
  let t := d.take p
  let waits := match t.ladder with
    | some l => !l.cands.isEmpty
    | none => false
  if d.takeState p != stPosting || waits then d
  else
    let d := if t.status = 0 then ladderEnd p d else d
    let t := d.take p
    let rec_ := d.completion t ++ d.dailies t
    let d := ({ d with free := d.free + 3 }.restoreUnits p).putBytes t.cmd.resultAddr rec_
    let d := (d.vector p t.cmd.vector).bump (mboxPage p) (if t.status = 0 then 0x048 else 0x050) 1
    let d := d.toIdle p
    let d := d.wr .sluice 0x104 (4 + p.idx) 0
    let d := { d with sluice := { d.sluice with scale := tdel d.sluice.scale p.idx } }
    t.retire.foldl (fun d r => d.retireNow r) d

end Sys2Proof.Machine
end

