-- ==== Sys2Proof/Machine/Sram.lean ====
section
/-!
DEFINITION. The SRAM banks (R218 to R230): ownership and handovers, merges, alias windows, power states, the
transparent test, read errors; and the maintenance locks.
-/

namespace Sys2Proof.Machine

/-- Keep the worse of an operand's outcome and an armed injection's (R435: data stays correct). -/
def worse (c : Check) (inj : Nat) : Check :=
  match c, inj with
  | .clean, 1 => .transient
  | .clean, 2 => .lasting
  | .transient, 2 => .lasting
  | c, _ => c

/-- Beats a member waits for a retry (kind false) or a refresh count as its stall (R204). -/
def Dev.stall (d : Dev) (p : Port) (pg : Page) (refresh : Bool) (n : Nat) : Dev :=
  d.modTake p fun t => { t with members := t.members.map fun m =>
    if m.page == pg then
      { m with beats := m.beats + n, refresh := m.refresh + (if refresh then n else 0),
               retry := m.retry + (if refresh then 0 else n) }
    else m }

/-- The member an operand names waits for a retry. -/
def Dev.retryWait (d : Dev) (w : Option Wait) : Dev :=
  match w with
  | some x => (match d.member x.port x.member with
      | some m => if d.running x.port then d.stall x.port m.page false x.beats else d
      | none => d)
  | none => d

/-! ### Locks (R230) -/

/-- Register and bit of a lock: targets 256c + b for banks, 2^16 + v for vaults. -/
def lockReg (target : Nat) : Page × Nat × Nat :=
  if target < 0x10000 then (.vc (target / 256), 0x100C + 16 * (target % 256), 18)
  else let v := target - 0x10000; (.vc (v / 32), 0x204 + 16 * (v % 32), 3)

def bankLock (c b : Nat) : Nat := 256 * c + b
def vaultLock (v : Nat) : Nat := 0x10000 + v

def Dev.lock (d : Dev) (target : Nat) : Nat := let r := lockReg target; d.rd r.1 r.2.1 r.2.2
def Dev.setLock (d : Dev) (target n : Nat) : Dev := let r := lockReg target; d.wr r.1 r.2.1 r.2.2 n

/-- Waiting codes of a lock, highest precedence first. -/
def Dev.lockQueue (d : Dev) (target : Nat) : List Nat :=
  ((List.range 5).map (· + 1)).filter fun a => d.banks.lockWait.contains (target, a)

/-- The holder `a` releases: the waiting activity of highest precedence has the lock, or none. -/
def Dev.unlock (d : Dev) (target a : Nat) : Dev :=
  let d := { d with banks := { d.banks with lockWait := d.banks.lockWait.filter (· != (target, a)) } }
  if d.lock target != a then d
  else match d.lockQueue target with
    | [] => d.setLock target 0
    | n :: _ =>
      { d.setLock target n with
        banks := { d.banks with lockWait := d.banks.lockWait.filter (· != (target, n)) } }

/-- An activity asks for a lock: a lower holder yields at its safe point and waits to resume; a higher one makes
the request wait. -/
def Dev.askLock (d : Dev) (target a : Nat) : Dev :=
  let h := d.lock target
  let wait (x : Nat) (d : Dev) : Dev :=
    if d.banks.lockWait.contains (target, x) then d
    else { d with banks := { d.banks with lockWait := d.banks.lockWait ++ [(target, x)] } }
  if h = 0 then d.setLock target a
  else if a < h then (wait h d).setLock target a
  else if a = h then d
  else wait a d

/-- LOCK_REQUEST: an activity asks for the lock of bank b of column c, or (no bank) of vault v. -/
def doLockRequest (vault : Bool) (c n a : Nat) (d : Dev) : Dev :=
  if a = 0 || 5 < a then d
  else if vault then (if c < 16 && n < 32 then d.askLock (vaultLock (32 * c + n)) a else d)
  else if c < 16 && n < banksOf c then d.askLock (bankLock c n) a
  else d

/-! ### Banks -/

/-- A local SRAM address: its view (0 normal, 1 set alias, 2 clear alias) and its address in the normal view
(R223, R240). -/
def sramView (a : Nat) : Nat × Nat :=
  if 0x1400000000 ≤ a && a < 0x1440000000 then (1, a - 0x400000000)
  else if 0x1800000000 ≤ a && a < 0x1840000000 then (2, a - 0x800000000)
  else (0, a)

/-- Block, column and bank index of a normal-view address. -/
def bankOfAddr (a : Nat) : Option (Page × Nat × Nat) :=
  (sramPage a).map fun pg =>
    let b := pg.bank (pg.bankOf (a - pg.ownMem))
    (pg, b.1, b.2)

/-- First local address of bank index b of column c, and its bytes. -/
def bankSpan (c b : Nat) : Nat × Nat :=
  let pg := bankBlock c b
  match pg with
  | .tile _ => (pg.ownMem + (b % 16) * 0x40000, 0x40000)
  | .me _ => (pg.ownMem + (b - 144) * 0x40000, 0x40000)
  | _ => (pg.ownMem + (b % 8) * 0x20000, 0x20000)

/-- Owner code of a requester (R219); none for one that can own no bank. -/
def whoCode : Who → Option (Nat × Nat)
  | .take _ => some (1, 0)
  | .pump n => some (2, n)
  | .window .a => some (3, 0)
  | .window .b => some (4, 0)
  | .control => some (5, 0)
  | .capture _ => some (1, 0)
  | .remote _ => none

def Dev.bankField (d : Dev) (c b off lo : Nat) : Nat := d.rd (.vc c) (0x1000 + off + 16 * b) lo
def Dev.setBank (d : Dev) (c b off lo v : Nat) : Dev := d.wr (.vc c) (0x1000 + off + 16 * b) lo v

/-- The owner in force and the owner requested match on code and, for a pump, engine. -/
def ownerIs (code pump : Nat) (w : Nat × Nat) : Bool := code == w.1 && (code != 2 || pump == w.2)

/-- Is the bank served: ON, not waking and not on its way out (R224, R225)? -/
def Dev.bankOn (d : Dev) (c b : Nat) : Bool :=
  d.bankField c b 8 4 == 0 && d.bankField c b 8 0 == 0 && d.bankField c b 8 8 == 0 && d.bankField c b 8 9 == 0

/-- The running take whose bank it is. -/
def Dev.bankUser (d : Dev) (c b : Nat) : Option Port :=
  if d.bankField c b 4 0 = 1 then d.takeOf (bankBlock c b) else none

/-- A SECDED error on a read (R229). -/
def Dev.bankError (d : Dev) (c b : Nat) (e : Check) : Dev :=
  let pg := Page.vc c
  let blk := bankBlock c b
  let user := d.bankUser c b
  let slow (d : Dev) : Dev := match user with
    | some p => let (n, d) := d.fresh; d.stall p blk false (n % 5)
    | none => d
  match e with
  | .clean => d
  | .transient =>
    let d := (slow d).retryTransient pg
    (d.setBank c b 0xC 0 (min (d.bankField c b 0xC 0 + 1) 65535)).bump pg 0x070 1
  | .lasting => ((slow d).setBank c b 0xC 16 1).lastingFixed pg user (.bank c b)
  | .lost => ((slow d).setBank c b 0xC 16 1).lasting pg 0x25 b user true (.bank c b)

/-- The bytes a write leaves, seen through a view (R223). -/
def viewBytes (view : Nat) (old new : List Byte) : List Byte :=
  match view with
  | 1 => List.zipWith (· ||| ·) old new
  | 2 => List.zipWith (fun o n => o &&& ~~~n) old new
  | _ => new

/-- What came of an access; a refusal carries the code of R243. -/
inductive Served where
  | ok (data : List Byte)
  | merging                              -- a merge's read step is done; its access completes with its write step
  | refused (code : Nat)
  | lost                                 -- uncorrectable data
  | waits
  deriving DecidableEq, Repr

def Served.resp : Served → Resp
  | .ok [] => .ok
  | .ok bs => .data (leNat bs)
  | .refused _ | .lost => .error
  | .merging | .waits => .none

/-- An access to a bank: dropped by owner, power or alias width, waiting for a handover or a merge, or served. -/
def Dev.bankServe (d : Dev) (c b : Nat) (x : BankAcc) (e : Check) : Served × Dev :=
  let vc := Page.vc c
  let k := bankKey (c, b)
  let drop (code : Nat) (d : Dev) : Served × Dev := (.refused code, d.logErr vc code b)
  let notOwner : Served × Dev :=
    (.refused 0x20, (d.bump vc 0x068 1).logErr vc 0x20 (b + (if x.write then 2 ^ 8 else 0)))
  let inForce := match whoCode x.who with
    | some w => ownerIs (d.bankField c b 4 0) (d.bankField c b 4 8) w
    | none => false
  let asked := match whoCode x.who with
    | some w => ownerIs (d.bankField c b 0 0) (d.bankField c b 0 8) w
    | none => false
  let pending := d.bankField c b 4 16 == 1
  let capture := match x.who with
    | .capture _ => d.bankField c b 4 0 == 1
    | _ => false
  if x.write && x.view != 0 && !((x.len = 1 || x.len = 4 || x.len = 8) && x.addr % x.len = 0) then drop 0x22 d
  else if pending && asked && !inForce then (.waits, d)
  else if !capture && (!inForce || (pending && !asked)) then notOwner
  else if !d.bankOn c b then drop 0x21 d
  else if (match findKey k d.banks.merges with
      | some m => m.addr / 8 ≤ (x.addr + x.len - 1) / 8 && x.addr / 8 ≤ (m.addr + m.data.length - 1) / 8
      | none => false) then (.waits, d)
  else
    let plain := x.view = 0 && x.addr % 8 = 0 && x.len % 8 = 0
    let (inj, d) := if x.write && plain then (0, d) else d.fire vc
    let e := if x.write && plain then Check.clean else worse e inj
    let d := d.bankError c b e
    if x.write then
      if e = .lost then (.lost, d)
      else if plain then (.ok [], d.putBytes x.addr x.data)
      else
        let d := d.finishMerge (c, b)
        let m : Merge := { addr := x.addr, data := viewBytes x.view (d.bytes x.addr x.len) x.data }
        (.merging, { d with banks := { d.banks with merges := tput d.banks.merges k m } })
    else if e = .lost then (.lost, d)
    else (.ok (d.bytes x.addr x.len), d)

/-- Serve what waits at a bank, in order, until something must wait again; each access completes with its answer. -/
def Dev.serveWaiting (d : Dev) (c b : Nat) : Dev :=
  let k := bankKey (c, b)
  let q := tget [] d.banks.waiting k
  let d := { d with banks := { d.banks with waiting := tdel d.banks.waiting k } }
  q.foldl (fun d x =>
    let more := tget [] d.banks.waiting k
    let wait (d : Dev) : Dev := { d with banks := { d.banks with waiting := tput d.banks.waiting k (more ++ [x]) } }
    if !more.isEmpty then wait d
    else
      let r := d.bankServe c b x .clean
      match r.1 with
      | .waits => wait r.2
      | .merging => r.2
      | s => { r.2 with out := r.2.out ++ [.bankDone c b x.addr s.resp] }) d

/-- The drain of a handover ends: the requested owner has the bank, and the accesses that wait proceed (R220). -/
def Dev.finishHandover (d : Dev) (c b : Nat) : Dev :=
  (d.giveBank (c, b) (d.bankField c b 0 0, d.bankField c b 0 8)).serveWaiting c b

/-- HANDOVER_COMPLETE: at the end of a drain, or of a handover that a take's start or end has made. -/
def doHandoverComplete (c b : Nat) (d : Dev) : Dev :=
  if c < 16 && b < banksOf c then
    (if d.bankField c b 4 16 = 1 then d.finishHandover c b else d.serveWaiting c b)
  else d

/-- MERGE_WRITE. -/
def doMergeWrite (c b : Nat) (d : Dev) : Dev := (d.finishMerge (c, b)).serveWaiting c b

/-- SRAM_ACCESS: one access at a local address. A reserved address is refused by the vault controller of column 0
(R240). -/
def doSramAccess (who : Who) (addr len : Nat) (data : Option (List Byte)) (e : Check) (d : Dev) : Dev :=
  let v := sramView addr
  match bankOfAddr v.2, bankOfAddr (v.2 + len - 1) with
  | some (pg, c, b), some (_, c', b') =>
    if c = c' && b = b' && pg != .clap then
      let x : BankAcc := { who := who, view := v.1, addr := v.2, len := len, write := data.isSome, data := data.getD [] }
      let k := bankKey (c, b)
      let queue := tget [] d.banks.waiting k
      let wait (d : Dev) : Dev :=
        { d with banks := { d.banks with waiting := tput d.banks.waiting k (queue ++ [x]) } }
      let r := d.bankServe c b x e
      match r.1 with
      | .waits => wait r.2
      | s => { r.2 with resp := s.resp }
    else { d.logErr (.vc 0) 0x29 (bits addr 30 8) with resp := .error }
  | _, _ => { d.logErr (.vc 0) 0x29 (bits addr 30 8) with resp := .error }

/-- An access that a longer transfer makes: what it would wait for is over first. -/
def Dev.sramLine (d : Dev) (who : Who) (addr len : Nat) (data : Option (List Byte)) : Served × Dev :=
  let v := sramView addr
  match bankOfAddr v.2 with
  | some (_, c, b) =>
    let x : BankAcc := { who := who, view := v.1, addr := v.2, len := len, write := data.isSome, data := data.getD [] }
    let r := d.bankServe c b x .clean
    let r := match r.1 with
      | .waits =>
        let d := r.2.finishMerge (c, b)
        let d := if d.bankField c b 4 16 = 1 && !(match whoCode who with
            | some w => ownerIs (d.bankField c b 4 0) (d.bankField c b 4 8) w
            | none => false) then d.finishHandover c b else d
        (d.finishMerge (c, b)).bankServe c b x .clean
      | _ => r
    match r.1 with
    | .merging => (.ok [], { r.2.finishMerge (c, b) with out := r.2.out })
    | s => (s, r.2)
  | none => (.refused 0x29, d.logErr (.vc 0) 0x29 (bits addr 30 8))

/-! ### Owner and power writes -/

/-- BANK_OWNER written by a host (R219, R220). -/
def Dev.bankOwnerWrite (d : Dev) (p : Port) (c b w : Nat) : Dev :=
  let code := bits w 0 3
  let pump := bits w 8 5
  let held := d.bankField c b 4 0
  let next := d.bankField c b 0 0
  let own (n : Nat) : Bool := n = 1 || n = 5
  if 5 < code || own held || (d.bankField c b 4 16 = 1 && own next) || code = 1 || code = 5 ||
      (code = 3 && p != .a) || (code = 4 && p != .b) ||
      (code = 2 && d.owner (.pump pump) != d.owner (bankBlock c b)) then
    d.logErr (.vc c) 0x27 b
  else ((d.setBank c b 0 0 code).setBank c b 0 8 pump).setBank c b 4 16 1

/-- BANK_POWER.req written by a host (R224). While the bank wakes from OFF it is also being cleared. -/
def Dev.bankPowerWrite (d : Dev) (c b w : Nat) : Dev :=
  let req := bits w 0 2
  if req = 3 then d
  else if d.bankField c b 4 0 = 1 then d.logErr (.vc c) 0x27 b
  else
    let st := d.bankField c b 8 4
    let d := d.setBank c b 8 0 req
    let wakes := (req = 0 && st != 0) || (req = 1 && st = 2)
    (d.setBank c b 8 9 wakes.toNat).setBank c b 8 8 (wakes && st == 2).toNat

/-- BANK_TRANSITION_DONE: the requested state is in force; a bank woken from OFF holds zeros, and one that enters
OFF takes its block's epoch (R225). -/
def doBankTransitionDone (c b : Nat) (d : Dev) : Dev :=
  if !(c < 16 && b < banksOf c) then d
  else
    let st := d.bankField c b 8 4
    let req := d.bankField c b 8 0
    if st = req && d.bankField c b 8 9 = 0 then d
    else
      let s := bankSpan c b
      let d := d.finishMerge (c, b)
      let d := if st = 2 && req != 2 then d.clearMem s.1 s.2 else d
      let d := ((d.setBank c b 8 4 req).setBank c b 8 8 0).setBank c b 8 9 0
      if req = 2 then d.setEpoch (bankBlock c b) 0 else d

/-! ### The transparent test (R226 to R228) -/

def bankRegions (c b : Nat) : Nat := (bankSpan c b).2 / 256

/-- Banks the tester works on: ON and not bad. -/
def Dev.testable (d : Dev) (c b : Nat) : Bool := d.bankOn c b && d.bankField c b 0xC 16 == 0

/-- The next bank the tester works on after bank b, ascending and around. -/
def Dev.nextBank (d : Dev) (c b : Nat) : Nat :=
  let n := banksOf c
  (((List.range n).map fun i => (b + 1 + i) % n).find? (d.testable c)).getD b

/-- TEST_REGION: the tester saves, marches over and restores one 256-byte region; its bits come back unchanged. -/
def doTestRegion (c : Nat) (e : Check) (d : Dev) : Dev :=
  if !(c < 16 && d.rdBool (.vc c) 0x100 2) then d
  else
    let vc := Page.vc c
    let b0 := d.rd vc 0x104 10
    let b := if d.testable c b0 then b0 else d.nextBank c b0
    let region := if b = b0 then tget 0 d.banks.region c else 0
    if !d.testable c b || (d.lock (bankLock c b) != 0 && d.lock (bankLock c b) != 3) then d
    else
      let (inj, d) := d.fire vc
      let d := (d.bump vc 0x078 1).unlock (bankLock c b) 3
      let d := match worse e inj with
        | .clean => d
        | .transient => d.retryTransient vc
        | _ => (d.setBank c b 0xC 16 1).lasting vc 0x26 b (d.bankUser c b) false (.bank c b)
      let last := region + 1 = bankRegions c b
      let d := { d with banks := { d.banks with region := tput d.banks.region c (if last then 0 else region + 1) } }
      d.wr vc 0x104 10 (if last then d.nextBank c b else b)

/-- TEST_SKIP_BANK: no free beat came; the tester returns to the bank on its next pass. -/
def doTestSkipBank (c : Nat) (d : Dev) : Dev :=
  if c < 16 && d.rdBool (.vc c) 0x100 2 then
    let d := { d with banks := { d.banks with region := tput d.banks.region c 0 } }
    d.wr (.vc c) 0x104 10 (d.nextBank c (d.rd (.vc c) 0x104 10))
  else d

end Sys2Proof.Machine
end

