-- ==== Sys2Proof/Machine/Vault.lean ====
section
/-!
DEFINITION. The DRAM vaults (R231 to R239): accesses, errors and row retirement, refresh, layer sensors, patrol
scrub, clears; and the address map over SRAM, DRAM and other devices (R240, R241).
-/

namespace Sys2Proof.Machine

def vaultPage (v : Nat) : Page := .vc (v / 32)
def Dev.vaultField (d : Dev) (v off lo : Nat) : Nat := d.rd (vaultPage v) (0x200 + off + 16 * (v % 32)) lo
def Dev.setVault (d : Dev) (v off lo n : Nat) : Dev := d.wr (vaultPage v) (0x200 + off + 16 * (v % 32)) lo n

/-- The take for which a vault is guarded (R239). -/
def Dev.guarded (d : Dev) (v : Nat) : Bool :=
  allPorts.any fun p => (d.takeState p == stRunning || d.takeState p == stPosting) && (d.take p).guards.contains v

/-- The running take that lists a vault's column. -/
def Dev.vaultUser (d : Dev) (v : Nat) : Option Port := d.takeOf (vaultPage v)

/-- Partition of a requester (BLK_OWNER code); none for the control complex, a capture and another device. -/
def Dev.whoPart (d : Dev) : Who → Option Nat
  | .pump n => some (d.owner (.pump n))
  | .window p => some p.idx
  | _ => none

/-- A detected error on a line read (R235, R236). `stall`: the take and member page that wait for the re-read. -/
def Dev.lineError (d : Dev) (v line : Nat) (e : Check) (stall : Option (Port × Page)) : Dev :=
  let pg := vaultPage v
  let j := v % 32
  let ib := line % 64
  let note (u : Bool) (d : Dev) : Dev :=
    ((d.setVault v 8 0 (line % 2 ^ 30)).setVault v 8 30 u.toNat).setVault v 8 31 1
  let slow (d : Dev) : Dev := match stall with
    | some (p, m) => let (n, d) := d.fresh; d.stall p m false (n % 65)
    | none => d
  match e with
  | .clean => d
  | .transient => ((note false (slow d)).retryTransient pg).bump pg 0x040 1
  | .lasting => (note false (slow d)).lastingFixed pg (d.vaultUser v) (.row v ib line false)
  | .lost =>
    let d := (note true (slow d)).bump pg 0x048 1
    d.lasting pg 0x24 j (d.vaultUser v) true (.row v ib line true)

/-- An access within one line of DRAM. A write of part of a line reads it first (R274). -/
def Dev.vaultServe (d : Dev) (who : Who) (addr len : Nat) (data : Option (List Byte)) (e : Check)
    (stall : Option (Port × Page)) : Served × Dev :=
  let v := addr / 2 ^ 27
  let pg := vaultPage v
  let j := v % 32
  let w := if data.isSome then 2 ^ 8 else 0
  if d.vaultField v 4 0 = 1 then (.refused 0x28, d.logErr pg 0x28 j)
  else if (d.whoPart who).isSome && d.whoPart who != some (d.vaultField v 0xC 0) then
    (.refused 0x2A, d.logErr pg 0x2A (j + w))
  else if d.vaultField v 0xC 0 = 3 then (.refused 0x2A, d.logErr pg 0x2A (j + w))
  else if (d.whoPart who).isSome && d.guarded v then (.refused 0x23, d.logErr pg 0x23 j)
  else
    let whole := data.isSome && addr % 64 = 0 && len = 64
    let (inj, d) := if whole then (0, d) else d.fire pg
    let e := if whole then Check.clean else worse e inj
    let d := d.lineError v (addr / 64) e stall
    if e = .lost then (.lost, d)
    else match data with
      | some bs => (.ok [], d.putBytes addr bs)
      | none => (.ok (d.bytes addr len), d)

/-- Does the vault complete `x` before `y` where they collide: the earlier beat's (log 207); in one beat that of the
lower script-table index; of one script the source operand before the destination (R19, R190)? -/
def VaultUse.before (x y : VaultUse) : Bool :=
  x.beat < y.beat ||
    (x.beat == y.beat && (x.member < y.member || (x.member == y.member && !x.write && y.write)))

/-- Scheduled accesses that collide with one: at the vault's port in its beat, or at its internal bank less than 64
beats away (R232). -/
def Dev.vaultRivals (d : Dev) (x : VaultUse) : List VaultUse :=
  let v := x.addr / 2 ^ 27
  ((findKey v d.banks.portBeat).toList.filter (·.beat == x.beat)) ++
    ((findKey (64 * v + bits x.addr 6 6) d.banks.ibBeat).toList.filter fun y =>
      decide (x.beat < y.beat + 64 ∧ y.beat < x.beat + 64))

/-- A scheduled access comes to a vault: does the vault drop it? Where it collides the vault controller raises the
bank collision; an access completed already that it comes before is undone (R18, R19, R232). -/
def Dev.vaultBeat (d : Dev) (p : Port) (x : VaultUse) : Bool × Dev :=
  let v := x.addr / 2 ^ 27
  let ib := bits x.addr 6 6
  let rivals := d.vaultRivals x
  let d := if rivals.isEmpty then d else d.raise p (vaultPage v) 0x01 (v % 32 + ib * 2 ^ 8)
  if rivals.any fun y => !x.before y then (true, d)
  else
    let d := rivals.foldl (fun d y => if y.write then d.putBytes y.addr y.old else d) d
    let x := if x.write then { x with old := d.bytes x.addr x.old.length } else x
    (false, { d with banks := { d.banks with
      portBeat := tput d.banks.portBeat v x, ibBeat := tput d.banks.ibBeat (64 * v + ib) x } })

/-- A beat that a scheduled access takes is not one of the service grant's: the grant at the vault's port lasts a beat
longer (R23, R24). -/
def Dev.holdPort (d : Dev) (v beat : Nat) : Dev :=
  match findKey v d.arbs with
  | some x => (match x.holder with
      | some h =>
        if h.first ≤ beat && beat < h.first + h.left then
          { d with arbs := tput d.arbs v { x with holder := some { h with first := h.first + 1 } } }
        else d
      | none => d)
  | none => d

/-- Does a service access find its port's beat taken by a scheduled access? It waits (R24). -/
def Dev.beatTaken (d : Dev) (v beat : Nat) : Bool :=
  (d.vaultUser v).isSome && (match findKey v d.banks.portBeat with
    | some x => x.beat == beat
    | none => false)

/-- VAULT_ACCESS: one access within a line, in a beat. A take's access names the member that makes it; one that
collides and is dropped reads all ones, or writes nothing (R19). A service access whose beat is taken waits: its
requester presents it again in a later beat. -/
def doVaultAccess (who : Who) (addr len : Nat) (data : Option (List Byte)) (e : Check) (member beat : Nat)
    (d : Dev) : Dev :=
  if 2 ^ 36 ≤ addr || len = 0 || 64 < addr % 64 + len then
    { d.logErr (.vc 0) 0x29 (bits addr 30 8) with resp := .error }
  else
    let v := addr / 2 ^ 27
    let serve (d : Dev) (stall : Option (Port × Page)) : Dev :=
      let r := d.vaultServe who addr len data e stall
      { r.2 with resp := r.1.resp }
    match who with
    | .take p =>
      (match d.member p member with
        | some m =>
          if d.running p then
            let x : VaultUse := ⟨beat, member, data.isSome, addr, (data.getD [])⟩
            (match (d.holdPort v beat).vaultBeat p x with
              | (true, d) =>
                { d with resp := if data.isSome then .ok else .data (leNat (List.replicate len 0xFF)) }
              | (false, d) => serve d (some (p, m.page)))
          else serve d (some (p, m.page))
        | none => serve d none)
    | _ => if d.beatTaken v beat then d else serve d none

/-- REFRESH: an operation of vault v; at each internal bank it occupies it may make one scheduled access of a member
wait, at most 150 ns (R234). -/
def doRefresh (v : Nat) (delayed : List Wait) (d : Dev) : Dev :=
  if 512 ≤ v then d
  else
    delayed.foldl (fun d x =>
      match d.member x.port x.member with
      | some m =>
        if d.running x.port then (d.bump (vaultPage v) 0x058 x.beats).stall x.port m.page true x.beats else d
      | none => d) (d.bump (vaultPage v) 0x050 1)

/-- LAYER_SENSOR_READING: 16 ms from the first reading above 85 °C until every sensor reads 83 °C or less. -/
def doLayerSensorReading (c layer temp : Nat) (d : Dev) : Dev :=
  if !(c < 16 && layer < 4) then d
  else
    let d := { d with banks := { d.banks with temps := tput d.banks.temps (4 * c + layer) (temp % 256) } }
    let ts := (List.range 4).map fun l => tget 0 d.banks.temps (4 * c + l)
    let vc := Page.vc c
    let d := d.wr vc 0x104 2 (ts.foldl max 0)
    let d := if 85 < temp % 256 then d.wr vc 0x104 1 1
      else if ts.all (· ≤ 83) then d.wr vc 0x104 1 0 else d
    forN 8 (fun i d => d.setVault (32 * c + 8 * layer + i) 4 2 (decide (85 < temp % 256)).toNat) d

/-- SCRUB_LINE: the patrol scrub reads, corrects and rewrites the vault's next line. -/
def doScrubLine (v : Nat) (e : Check) (d : Dev) : Dev :=
  let pg := vaultPage v
  if !(v < 512 && d.rdBool pg 0x100 1) then d
  else
    let lock := d.lock (vaultLock v)
    if d.vaultField v 4 0 != 0 || (lock != 0 && lock != 2) then d
    else
      let i := tget 0 d.banks.scrub v
      let (inj, d) := d.fire pg
      let d := (d.lineError v (v * 2 ^ 21 + i) (worse e inj) none).bump pg 0x060 1
      let d := { d with banks := { d.banks with scrub := tput d.banks.scrub v ((i + 1) % 2 ^ 21) } }
      d.unlock (vaultLock v) 2

/-- VAULT_CTRL.clear written by the host of the vault's partition (R238). -/
def Dev.vaultClearWrite (d : Dev) (v : Nat) : Dev :=
  if d.guarded v || d.vaultField v 0 0 = 1 || d.vaultField v 4 0 = 2 then d else d.setVault v 4 0 1

/-- VAULT_CLEAR_DONE: every line holds zero. -/
def doVaultClearDone (v : Nat) (d : Dev) : Dev :=
  if v < 512 && d.vaultField v 4 0 = 1 then (d.clearMem (v * 2 ^ 27) (2 ^ 27)).setVault v 4 0 0 else d

/-! ### The local address space (R240) -/

/-- Split a range at 64-byte lines: address and length of each piece, ascending. -/
def linesOf : Nat → Nat → Nat → List (Nat × Nat)
  | 0, _, _ => []
  | _, _, 0 => []
  | fuel + 1, a, n => let k := min n (64 - a % 64); (a, k) :: linesOf fuel (a + k) (n - k)

def lines (a n : Nat) : List (Nat × Nat) := linesOf (n / 64 + 2) a n

/-- One access within a line of the local space by a transfer. -/
def Dev.localLine (d : Dev) (who : Who) (addr len : Nat) (data : Option (List Byte)) : Served × Dev :=
  if addr < 2 ^ 36 then d.vaultServe who addr len data .clean none else d.sramLine who addr len data

/-- Read a local range line by line: the bytes, or the address of the first line that failed and why. -/
def Dev.readLines (d : Dev) (who : Who) : List (Nat × Nat) → List Byte → (List Byte × Option (Nat × Served)) × Dev
  | [], acc => ((acc, none), d)
  | (a, n) :: ls, acc =>
    let r := d.localLine who a n none
    match r.1 with
    | .ok bs => r.2.readLines who ls (acc ++ bs)
    | s => ((acc, some (a, s)), r.2)

/-- Write a local range line by line; what comes before a failing line stays written. -/
def Dev.writeLines (d : Dev) (who : Who) : List (Nat × Nat) → List Byte → Option (Nat × Served) × Dev
  | [], _ => (none, d)
  | (a, n) :: ls, bs =>
    let r := d.localLine who a n (some (bs.take n))
    match r.1 with
    | .ok _ => r.2.writeLines who ls (bs.drop n)
    | s => (some (a, s), r.2)

end Sys2Proof.Machine
end

