-- ==== Sys2Proof/Machine/Reel.lean ====
section
/-!
DEFINITION. Reels (R338 to R351): the format, capture at cut points, sealing keys, VERIFY and RESTORE.
-/

namespace Sys2Proof.Machine

def Dev.reel (d : Dev) : Port → ReelSt
  | .a => d.reelA | .b => d.reelB
def Dev.setReel (d : Dev) (p : Port) (r : ReelSt) : Dev :=
  match p with
  | .a => { d with reelA := r }
  | .b => { d with reelB := r }
def Dev.modReel (d : Dev) (p : Port) (f : ReelSt → ReelSt) : Dev := d.setReel p (f (d.reel p))

/-! ### Internal DRBG instances (R387, R388) -/

/-- Bytes from internal instance k, which must be READY; it waits for a reseed after 2^16 generate calls. -/
def Dev.intGenerate (d : Dev) (k n : Nat) : List Nat × Dev :=
  let r := drbgGenerate (tget {} d.ent.drbg (64 + k)) n
  let d := { d with ent := { d.ent with drbg := tput d.ent.drbg (64 + k) r.2 } }
  let d := d.bump .entCell 0x050 n
  (r.1, if 2 ^ 16 < r.2.ctr then d.wr .entCell 0x110 (2 * k) 2 else d)

def leOf (bs : List Nat) : Nat := leNat (bs.map (BitVec.ofNat 8))

/-! ### Writing a reel (R341 to R343) -/

def padTo64 (bs : List Byte) : List Byte := bs ++ List.replicate ((64 - bs.length % 64) % 64) 0

/-- A record: header and padded payload. -/
def reelRecord (ty unit first count : Nat) (payload : List Byte) : List Byte :=
  leBytes 2 ty ++ leBytes 2 unit ++ leBytes 4 first ++ leBytes 4 count ++ leBytes 4 payload.length ++
    leBytes 48 0 ++ padTo64 payload

/-- Elements of `w` bits packed by R51, w dividing 8 or a multiple of it. -/
def packElems (w : Nat) (xs : List Nat) : List Byte := leBytes ((xs.length * w + 7) / 8) (xs.zipIdx.foldl
  (fun acc x => acc + (x.1 % 2 ^ w) * 2 ^ (w * x.2)) 0)

/-- The logical tiles of a take with their contexts. -/
def Dev.takeTiles (d : Dev) (p : Port) : List TileCtx :=
  (List.range (d.take p).cs.tiles).filterMap fun l => (d.siteOf p l).map (d.tileCtx p)

def TileCtx.reelStates (c : TileCtx) (d : Dev) (lat : Bool) : List Byte :=
  if lat then
    packElems 1 ((List.range 512).flatMap fun v => (List.range c.reps).map (c.latState d v))
  else
    (List.range c.vars).flatMap (fun v =>
      let e := c.desc d v
      (List.range c.reps).map (c.state d e)) |> packElems (stateWidth c.fmt)

def TileCtx.reelFields (c : TileCtx) (d : Dev) (lat : Bool) : List Byte :=
  if lat then (List.range 512).flatMap fun v => (List.range c.reps).flatMap fun r => leBytes 4 (c.latField d v r)
  else (List.range c.vars).flatMap fun v =>
    let e := c.desc d v
    (List.range c.reps).flatMap fun r => (List.range e.q).flatMap fun k => d.bytes (e.fieldAddr r k) 4

/-- Pool slots named by the cistern entries and by the candidates of the last notice, ascending. -/
def reelSlots (tableWords : List Nat) (notice : Nat) : List Nat :=
  let named := tableWords.map entPool ++ ((List.range 16).filterMap fun i =>
    let w := bits notice (512 + 32 * i) 32
    if bit w 31 then some (bits w 9 13) else none)
  (List.range 8192).filter named.contains

/-- The records of a reel (R343). -/
def Dev.reelRecords (d : Dev) (p : Port) : List (List Byte) :=
  let t := d.take p
  let lat := t.cs.lattice
  let cs := d.takeTiles p
  let first (c : TileCtx) : Nat := if lat then 512 * c.l else c.first d
  let vars (c : TileCtx) : Nat := if lat then 512 else c.vars
  let tile (ty : Nat) (f : TileCtx → List Byte) : List (List Byte) :=
    cs.map fun c => reelRecord ty c.l (first c) (vars c) (f c)
  let lad := match t.ladder with
    | some l =>
      let w := l.record d
      let table := (List.range l.entries).map (l.entry d w)
      [ reelRecord 0x10 0x100 0 0 (l.energies.flatMap fun e => leBytes 8 (ofSigned 64 e)),
        reelRecord 0x11 0x100 0 0 ((l.rungMap d w).flatMap (leBytes 2)),
        reelRecord 0x12 0x100 0 0 (leBytes 4 l.entries ++ leBytes 60 0 ++ d.bytes (l.entryAddr w 0) (32 * l.entries)),
        reelRecord 0x13 0x100 0 0 ((reelSlots table l.notice).flatMap fun s => d.bytes (poolAddr w s) (64 * lrStride w)),
        reelRecord 0x14 0x100 0 0 (leBytes 128 l.notice),
        reelRecord 0x15 0x100 0 0 (statsBlock p l d) ]
    | none => []
  let inst := tget {} d.ent.drbg (64 + p.idx)
  let drbg := if t.usesDrbg then
      [reelRecord 0x20 0x200 0 0 (leBytes 16 (ofBytesBE (toBytesBE 16 inst.v).reverse) ++
        inst.key.map (BitVec.ofNat 8) ++ leBytes 8 inst.ctr)] else []
  tile 0x01 (·.reelStates d lat) ++ tile 0x02 (·.reelFields d lat) ++
    tile 0x03 (fun c => (List.range c.reps).flatMap fun r => leBytes 4 (c.beta d r)) ++ lad ++ drbg

/-- The stream map (R128). -/
def streamMap (purposes : Nat) : List Byte := leBytes 32 (1 + 2 ^ 8 + (purposes % 2 ^ 128) * 2 ^ 64)

/-- Header of a reel, `magic` in place, for the given crc, key identifier, nonce and tag (R341). -/
def Dev.reelHeader (d : Dev) (p : Port) (id size records : Nat) (sealed : Bool) (crc keyId nonce : Nat)
    (tag : List Byte) : List Byte :=
  let t := d.take p
  let flags := sealed.toNat + 2 * t.cs.lattice.toNat + 4 * t.diverged.toNat + 8 * t.usesDrbg.toNat
  let c := (d.takeTiles p).head?
  leBytes 4 0x4C524B49 ++ leBytes 1 4 ++ leBytes 1 0 ++ leBytes 2 flags ++ leBytes 8 size ++ leBytes 4 crc ++
    leBytes 4 records ++ leBytes 8 (t.step % 2 ^ 48) ++ leBytes 8 t.beat ++ leBytes 2 id ++ leBytes 2 0 ++
    leBytes 4 (tget 0 t.occ id) ++ leBytes 1 (d.partTiles p) ++ leBytes 1 t.cs.tiles ++
    leBytes 2 ((c.map (·.reps)).getD 0) ++ leBytes 1 ((c.map (·.fmt)).getD 0) ++
    leBytes 1 (if t.cs.lattice then t.cs.tiles / 8 else 0) ++ leBytes 10 0 ++
    (t.cs.slate ++ List.replicate (64 - t.cs.slate.length) 0) ++ streamMap t.cs.purposes ++
    leBytes 4 keyId ++ leBytes 12 nonce ++ tag ++ leBytes 64 0

def natBytes (bs : List Byte) : List Nat := bs.map (·.toNat)
def byteList (xs : List Nat) : List Byte := xs.map (BitVec.ofNat 8)

/-- Nonce of the key's next sealed capture: the 64-bit prefix, then the invocation counter (R344). -/
def ReelKey.nonceNow (k : ReelKey) : Nat := k.nonce % 2 ^ 64 + (k.used % 2 ^ 32) * 2 ^ 64

/-- The reel's bytes, sealed under a key or not (R344). -/
def Dev.reelBytes (d : Dev) (p : Port) (id : Nat) (key : Option ReelKey) : List Byte :=
  let recs := d.reelRecords p
  let body := recs.flatten
  let size := 256 + body.length
  match key with
  | none =>
    let zero := leBytes 16 0
    let h := d.reelHeader p id size recs.length false 0 0 0 zero
    d.reelHeader p id size recs.length false (crc32c (h ++ body)) 0 0 zero ++ body
  | some k =>
    let zero := leBytes 16 0
    let nonce := natBytes (leBytes 12 k.nonceNow)
    let aad := natBytes (d.reelHeader p id size recs.length true 0 k.id k.nonceNow zero)
    let ct := gcmCrypt k.key nonce (natBytes body)
    let tag := byteList (gcmTag k.key nonce aad ct)
    let h := d.reelHeader p id size recs.length true 0 k.id k.nonceNow tag
    d.reelHeader p id size recs.length true (crc32c (h ++ byteList ct)) k.id k.nonceNow tag ++ byteList ct

/-! ### Capture (R338 to R340) -/

/-- Lock targets of a take's capture: every bank of its tiles and engines, and its columns' vaults. -/
def Dev.captureLocks (d : Dev) (p : Port) : List Nat :=
  (d.takeBanks p).map (fun b => bankLock b.1 b.2) ++
    (d.takePages p).flatMap fun pg => match pg with
      | .vc c => (List.range 32).map fun j => vaultLock (32 * c + j)
      | _ => []

/-- REEL_CAPTURE: the withheld occurrence's capture starts: `magic` is zeroed and the locks are taken. -/
def doReelCapture (p : Port) (d : Dev) : Dev :=
  match (d.take p).withheld with
  | some (_, area) =>
    if d.running p && !(d.reel p).capturing then
      let a := ((d.take p).cs.reels.getD area (0, 0)).1
      let d := (d.captureLocks p).foldl (fun d t => d.askLock t 1) (d.st a 4 0)
      d.modReel p fun r => { r with capturing := true }
    else d
  | none => d

def Dev.freeLocks (d : Dev) (p : Port) : Dev := (d.captureLocks p).foldl (fun d t => d.unlock t 1) d

/-- CAPTURE_DONE: the reel is written, the locks and the occurrence are released. A reel that must be sealed
without a usable key is not written, and the result reads NO_KEY (R344); nor is one during whose capture a lasting fault
lost data (chapter 16, Coincidences): READ_ERROR. -/
def doCaptureDone (p : Port) (d : Dev) : Dev :=
  match (d.take p).withheld with
  | some (id, area) =>
    if d.running p && (d.reel p).capturing then
      let t := d.take p
      let pg := Page.reel p.idx
      let a := (t.cs.reels.getD area (0, 0)).1
      let sealed := t.usesDrbg || d.rdBool pg 0x100 4
      let key := match (d.reel p).key with
        | some k => if k.used < 2 ^ 32 then some k else none
        | none => none
      let d := d.modReel p fun r => { r with capturing := false }
      let d := if t.stops.lost then d.wr pg 0x104 8 0x5C
        else if sealed && key.isNone then d.wr pg 0x104 8 0x5B
        else
          let d := d.putBytes a (d.reelBytes p id (if sealed then key else none))
          let d := if sealed then
              let d := d.modReel p fun r => { r with key := r.key.map fun k => { k with used := k.used + 1 } }
              d.wr pg 0x114 0 (min (d.rd pg 0x114 0 + 1) (2 ^ 32 - 1))
            else d
          (((d.bump pg 0x040 1).wr pg 0x118 0 (t.step % 2 ^ 32)).wr pg 0x11C 0 (bits t.step 32 16)).wr pg 0x104 8 0
      (d.freeLocks p).releaseOcc p id
    else d
  | none => d

/-! ### Reading a reel (R346) -/

structure ReelRec where
  ty : Nat
  unit : Nat
  first : Nat
  count : Nat
  data : List Byte
  deriving DecidableEq, Repr

/-- Types of R343. -/
def reelTypeOk (t : Nat) : Bool := (1 ≤ t && t ≤ 3) || (0x10 ≤ t && t ≤ 0x15) || t = 0x20

/-- The records of a reel's body: their list, or the index of the first bad one. -/
def reelChain : Nat → Nat → Nat → List Byte → Except Nat (List ReelRec)
  | 0, _, _, bs => if bs.isEmpty then .ok [] else .error 0
  | n + 1, i, last, bs =>
    let h := bs.take 64
    let ty := leNat (h.take 2)
    let unit := leNat ((h.drop 2).take 2)
    let len := leNat ((h.drop 12).take 4)
    let pad := (len + 63) / 64 * 64
    let order := ty * 2 ^ 16 + unit
    if h.length < 64 || !reelTypeOk ty || (h.drop 16).any (· != 0) || bs.length < 64 + pad ||
        (0 < i && order ≤ last) || ((bs.drop (64 + len)).take (pad - len)).any (· != 0) then .error i
    else
      match reelChain n (i + 1) order (bs.drop (64 + pad)) with
      | .ok rs => .ok (⟨ty, unit, leNat ((h.drop 4).take 4), leNat ((h.drop 8).take 4), (bs.drop 64).take len⟩ :: rs)
      | .error e => .error (if bs.length = 64 + pad && n = 0 then i else e)

/-- Reserved bits of a reel's header. -/
def reelReserved (h : Src) : Bool :=
  bits (h.num 0x06 2) 4 12 != 0 || h.num 0x1E 2 != 0 || h.num 0x2A 2 != 0 || h.num 0x36 10 != 0 || h.num 0xC0 64 != 0 ||
    h.num 0x82 6 != 0 || h.num 0x98 8 != 0

/-- Checks 1, 2, 3 and 5 of R346: the result, the failing record, and the reel's records. A sealed reel's records
are read once its seal has verified. -/
def Dev.reelVerify (d : Dev) (p : Port) (a : Nat) (loaded : Bool) : Nat × Nat × List ReelRec :=
  let h := d.sheetAt a
  let size := h.num 0x08 8
  let none_ := 0xFFFF
  if h.num 0 4 != 0x4C524B49 || size % 64 != 0 || size < 256 || localSpace < a + size || reelReserved h then
    (0x50, none_, [])
  else
    let bs := d.bytes a size
    let sealed := bit (h.num 0x06 2) 0
    let crc := crc32c (bs.take 0x10 ++ leBytes 4 0 ++ bs.drop 0x14)
    let chain (body : List Byte) := reelChain (h.num 0x14 4) 0 0 body
    let plain := if sealed then .ok [] else chain (bs.drop 256)
    if crc != h.num 0x10 4 then (0x50, none_, [])
    else match plain with
      | .error i => (0x50, i % 2 ^ 16, [])
      | .ok rs =>
        if h.num 0x04 1 != 4 || h.num 0x05 1 != 0 then (0x51, none_, [])
        else if h.num 0x80 1 != 1 || h.num 0x81 1 != 1 then (0x52, none_, [])
        else if !loaded then (0x53, none_, [])
        else if !sealed then (if bit (h.num 0x06 2) 3 then (0x54, none_, []) else (0, none_, rs))
        else match (d.reel p).key with
          | none => (0x54, none_, [])
          | some k =>
            let nonce := natBytes (h.list 0xA4 12)
            let aad := natBytes (bs.take 0x10 ++ leBytes 4 0 ++ (bs.drop 0x14).take 0x9C ++ leBytes 16 0 ++
              (bs.drop 0xC0).take 0x40)
            let ct := natBytes (bs.drop 256)
            if k.id != h.num 0xA0 4 || natBytes (h.list 0xB0 16) != gcmTag k.key nonce aad ct then (0x54, none_, [])
            else match chain (byteList (gcmCrypt k.key nonce ct)) with
              | .error i => (0x50, i % 2 ^ 16, [])
              | .ok rs => (0, none_, rs)

/-! ### RESTORE (R346 to R348) -/

/-- Join touching ranges of a list in ascending order; none where two overlap. -/
def joinRanges : List (Nat × Nat) → Option (List (Nat × Nat))
  | [] => some []
  | (a, n) :: rest =>
    match joinRanges rest with
    | none => none
    | some [] => some (if n = 0 then [] else [(a, n)])
    | some ((b, m) :: more) =>
      if n = 0 then some ((b, m) :: more)
      else if b < a + n then none
      else if b = a + n then some ((a, n + m) :: more)
      else some ((a, n) :: (b, m) :: more)

def insertRange (x : Nat × Nat) : List (Nat × Nat) → List (Nat × Nat)
  | [] => [x]
  | y :: ys => if x.1 ≤ y.1 then x :: y :: ys else y :: insertRange x ys

def sortRanges (l : List (Nat × Nat)) : List (Nat × Nat) := l.foldr insertRange []

/-- Tile context and local index of a global (or lattice) index of the take. -/
def Dev.placed (d : Dev) (p : Port) (g : Nat) : Option (TileCtx × Nat) :=
  let t := d.take p
  if t.cs.lattice then (d.siteOf p (g / 512)).map fun s => (d.tileCtx p s, g % 512)
  else match (d.siteOf p 0).map (d.tileCtx p) with
    | some c0 =>
      (match c0.place d g with
        | some (l, v) => (d.siteOf p l).map fun s => (d.tileCtx p s, v)
        | none => none)
    | none => none

/-- Field words of a variable. -/
def Dev.fieldWordsOf (d : Dev) (lat : Bool) (x : TileCtx × Nat) : Nat :=
  if lat then x.1.reps else x.1.reps * (x.1.desc d x.2).q

/-- Check 9. The ladder record of a lattice take is found through its scripts' LADDER_ROUND. -/
def Dev.ladderRecord (d : Dev) (p : Port) : Option (Nat × Nat) :=
  let cs := (d.take p).cs
  cs.scripts.findSome? fun e =>
    match d.blockPage p (cs.blocks.getD e.blk (0, 0)) with
    | some (.ve v) =>
      ((List.range e.len).map fun i => d.ld (veSram v + e.addr + 16 * i) 16).findSome? fun w =>
        if opcodeOf w = 0x53 then some (v, 64 * bits w 0 16) else none
    | _ => none

def Dev.takeTrue (d : Dev) (p : Port) : Bool :=
  let cs := (d.take p).cs
  cs.scripts.any fun e =>
    match d.blockPage p (cs.blocks.getD e.blk (0, 0)) with
    | some (.tile s) => (List.range e.len).any fun i => wordTrue 0x0030 (d.ld (tileSram s + e.addr + 16 * i) 16)
    | _ => false

def mkLadder (ve off : Nat) : Ladder := ⟨ve, off, [], 0, [], 0, [], [], [], [], [], [], 0⟩

def recData (rs : List ReelRec) (ty : Nat) : List Byte := ((rs.find? (·.ty == ty)).map (·.data)).getD []

/-- Table words of a CISTERN record. -/
def cisternWords (bs : List Byte) : List Nat :=
  (List.range (leNat (bs.take 4))).map fun i => leNat ((bs.drop (64 + 32 * i)).take 32)

def Dev.reelShape (d : Dev) (p : Port) (h : Src) (rs : List ReelRec) : Bool :=
  let t := d.take p
  let lat := t.cs.lattice
  let cs := d.takeTiles p
  let mine := if lat then cs.map fun c => (512 * c.l, 512) else cs.map fun c => (c.first d, c.vars)
  let got := (rs.filter (·.ty == 0x01)).map fun r => (r.first, r.count)
  let w := if lat then 1 else stateWidth (h.num 0x34 1)
  let words (r : ReelRec) : Nat := ((List.range r.count).map fun i =>
    ((d.placed p (r.first + i)).map (d.fieldWordsOf lat)).getD 0).sum
  (cs.all fun c => c.reps == h.num 0x32 2 && c.fmt == h.num 0x34 1) &&
    ((rs.filter (·.ty == 0x01)).all fun r => r.data.length == (r.count * h.num 0x32 2 * w + 7) / 8) &&
    joinRanges (sortRanges mine) == joinRanges (sortRanges got) && (joinRanges (sortRanges got)).isSome &&
    ((rs.filter (·.ty == 0x02)).all fun r => r.data.length == 4 * words r) &&
    (!(rs.any (·.ty == 0x20)) || d.takeTrue p) &&
    (!lat || match d.ladderRecord p with
      | some (ve, off) =>
        let w := (mkLadder ve off).record d
        let table := cisternWords (recData rs 0x12)
        let slots := reelSlots table (leNat (recData rs 0x14))
        table.length ≤ lrCap w && slots.all (· < lrCap w + lrCandMax w) &&
          (recData rs 0x13).length == slots.length * 64 * lrStride w
      | none => !(rs.any fun r => 0x10 ≤ r.ty && r.ty ≤ 0x15))

/-- All of RESTORE's checks: result and failing record, and the records. -/
def Dev.reelCheck (d : Dev) (p : Port) (a : Nat) : Nat × Nat × List ReelRec :=
  let v := d.reelVerify p a (d.takeState p == stLoaded)
  if v.1 != 0 then v
  else
    let h := d.sheetAt a
    let t := d.take p
    let lat := t.cs.lattice
    let cols := ((d.takeTiles p).head?.map fun c => latCols (c.latHdr d)).getD 0
    if bit (h.num 0x06 2) 1 != lat then (0x55, 0xFFFF, [])
    else if lat && h.num 0x35 1 != cols then (0x56, 0xFFFF, [])
    else if t.cs.seed != h.num 0x48 8 || t.cs.stepOrigin != h.num 0x18 6 then (0x57, 0xFFFF, [])
    else if !d.reelShape p h v.2.2 then (0x58, 0xFFFF, [])
    else v

/-- Element k of packed data. -/
def packedElem (bs : List Byte) (w k : Nat) : Nat :=
  if w < 8 then bits ((bs.getD (k * w / 8) 0).toNat) (k * w % 8) w else leNat ((bs.drop (k * w / 8)).take (w / 8))

/-- Write a STATES or FIELDS record. Clamped variables keep what the host staged (R347). -/
def Dev.restoreVars (d : Dev) (p : Port) (r : ReelRec) : Dev :=
  let lat := (d.take p).cs.lattice
  ((List.range r.count).foldl (fun (acc : Nat × Dev) i =>
    let k := acc.1
    let d := acc.2
    match d.placed p (r.first + i) with
    | none => acc
    | some (c, v) =>
      if r.ty = 0x01 then
        let w := if lat then 1 else stateWidth c.fmt
        if lat then
          if recClamp (c.latRec d v) then (k + c.reps, d)
          else (k + c.reps, forN c.reps (fun x d => c.setLatState d v x (packedElem r.data w (k + x))) d)
        else
          let e := c.desc d v
          if e.clamp then (k + c.reps, d)
          else (k + c.reps, forN c.reps (fun x d => c.setState d e x (packedElem r.data w (k + x))) d)
      else
        let n := d.fieldWordsOf lat (c, v)
        let word (x : Nat) : Nat := leNat ((r.data.drop (4 * (k + x))).take 4)
        if lat then
          if recClamp (c.latRec d v) then (k + n, d)
          else (k + n, forN n (fun x d => d.st (c.latFieldAddr v x) 4 (word x)) d)
        else
          let e := c.desc d v
          if e.clamp then (k + n, d)
          else (k + n, forN n (fun x d => d.st (e.fieldAddr (x / e.q) (x % e.q)) 4 (word x)) d)) (0, d)).2

/-- β tables: each tile takes the record of its own logical index, or the first one. -/
def Dev.restoreBeta (d : Dev) (p : Port) (rs : List ReelRec) : Dev :=
  let bs := rs.filter (·.ty == 0x03)
  (d.takeTiles p).foldl (fun d c =>
    match (bs.find? (·.unit == c.l)).orElse (fun _ => bs.head?) with
    | some r => forN (min c.reps (r.data.length / 4)) (fun i d =>
        d.st (c.store 4 + 4 * (c.betaOff + i)) 4 (leNat ((r.data.drop (4 * i)).take 4))) d
    | none => d) d

/-- The ladder's records: rung maps of the ladder engine and of every tile, the cistern table and its pool. -/
def Dev.restoreLadder (d : Dev) (p : Port) (rs : List ReelRec) (step : Nat) : Dev :=
  match d.ladderRecord p with
  | none => d
  | some (ve, off) =>
    if !rs.any (·.ty == 0x11) then d
    else
      let l := mkLadder ve off
      let w := l.record d
      let rung := recData rs 0x11
      let table := cisternWords (recData rs 0x12)
      let notice := leNat (recData rs 0x14)
      let pool := recData rs 0x13
      let n := 64 * lrStride w
      let d := d.putBytes (l.base + lrRungmapOff w) (rung.take (2 * lrReplicas w))
      let d := (d.takeTiles p).foldl (fun d c => d.putBytes (c.rungAddr (c.latHdr d) 0) (rung.take (2 * c.reps))) d
      let d := d.putBytes (l.entryAddr w 0) (((recData rs 0x12).drop 64).take (32 * table.length))
      let d := (reelSlots table notice).zipIdx.foldl (fun d x =>
        d.putBytes (poolAddr w x.1) ((pool.drop (n * x.2)).take n)) d
      let es := recData rs 0x10
      d.modTake p fun t => { t with restore := some {
        entries := table.length, notice := notice, stats := recData rs 0x15,
        energies := (List.range (lrReplicas w)).map fun i => toSigned 64 (leNat ((es.drop (8 * i)).take 8)),
        step := step } }

/-- The DRBG record goes to the take's instance. -/
def Dev.restoreDrbg (d : Dev) (p : Port) (bs : List Byte) : Dev :=
  if bs.length < 56 then d
  else
    let inst : Drbg := { v := ofBytesBE (natBytes (bs.take 16)), key := natBytes ((bs.drop 16).take 32),
                         ctr := leNat ((bs.drop 48).take 8) }
    let d := { d with ent := { d.ent with drbg := tput d.ent.drbg (64 + p.idx) inst } }
    if d.rdBool .entCell 0x104 11 then d
    else d.wr .entCell 0x110 (2 * p.idx) (if 2 ^ 16 < inst.ctr then 2 else 1)

/-- Write the records into the take's memories, in their order. -/
def Dev.restoreAll (d : Dev) (p : Port) (rs : List ReelRec) (step : Nat) : Dev :=
  let d := (rs.filter fun r => r.ty == 0x01 || r.ty == 0x02).foldl (fun d r => d.restoreVars p r) d
  let d := (d.restoreBeta p rs).restoreLadder p rs step
  d.restoreDrbg p (recData rs 0x20)

/-! ### Commands (R345, R351) -/

def Dev.reelAddr (d : Dev) (p : Port) : Nat :=
  64 * d.rd (.reel p.idx) 0x108 6 + 2 ^ 32 * d.rd (.reel p.idx) 0x10C 0

/-- A command is in progress with the result it will report. -/
def Dev.reelBusy (d : Dev) (p : Port) (cmd result record : Nat) : Dev :=
  (d.modReel p fun r => { r with cmd := cmd, result := result, record := record }).wr (.reel p.idx) 0x104 0 1

/-- A command is accepted unless one is in progress (BUSY), or the port's host level has no reel commands (level 1,
R412: VERSION). -/
def Dev.reelGate (d : Dev) (p : Port) (cmd : Nat) (f : Dev → Dev) : Dev :=
  if d.rdBool (.reel p.idx) 0x104 0 then d.wr (.reel p.idx) 0x104 8 0x5A
  else if d.rd (mboxPage p) 0x158 0 < 2 then d.reelBusy p cmd 0x51 0xFFFF
  else f d

def Dev.reelDoVerify (d : Dev) (p : Port) : Dev :=
  d.reelGate p 1 fun d =>
    let v := d.reelVerify p (d.reelAddr p) true
    d.reelBusy p 1 v.1 v.2.1

/-- RESTORE; with `fails`, an uncorrectable read at that record ends its write stage (R349). -/
def Dev.reelRestore (d : Dev) (p : Port) (fails : Option Nat) : Dev :=
  d.reelGate p 2 fun d =>
    let a := d.reelAddr p
    let v := d.reelCheck p a
    if v.1 != 0 then d.reelBusy p 2 v.1 v.2.1
    else
      let h := d.sheetAt a
      let rs := v.2.2
      let step := h.num 0x18 6
      match fails with
      | some i => (d.restoreAll p (rs.take i) step).reelBusy p 2 0x5C (i % 2 ^ 16)
      | none =>
        let cs := (d.take p).cs
        let diff := h.num 0x30 1 != cs.gradeTiles || h.num 0x31 1 != cs.tiles || bit (h.num 0x06 2) 2
        let d := (d.restoreAll p rs step).modTake p fun t => { t with diverged := diff }
        (d.wrBool (.reel p.idx) 0x104 1 diff).reelBusy p 2 0 0xFFFF

def Dev.installKey (d : Dev) (p : Port) (key : List Nat) (gen : Bool) : Dev :=
  let pg := Page.reel p.idx
  let (nb, d) := d.intGenerate (2 + p.idx) 8
  let d := d.modReel p fun r => { r with key := some { key := key, id := d.rd pg 0x110 0, nonce := leOf nb, used := 0 } }
  ((d.wr pg 0x114 0 0).wr pg 0x104 2 1).wrBool pg 0x104 3 gen

/-- KEYGEN (3) draws a key, KEYLOAD (4) takes it from REEL_KEY0 to REEL_KEY7. -/
def Dev.keyInstall (d : Dev) (p : Port) (cmd : Nat) : Dev :=
  let pg := Page.reel p.idx
  if cmd = 3 then
    let (kb, d) := d.intGenerate (2 + p.idx) 32
    d.installKey p kb true
  else
    let kb := (List.range 8).flatMap fun i => natBytes (leBytes 4 (d.rd pg (0x120 + 4 * i) 0))
    let d := forN 8 (fun i d => d.wr pg (0x120 + 4 * i) 0 0) d
    d.installKey p kb false

/-- Does the key instance of a partition serve? -/
def Dev.keyReady (d : Dev) (p : Port) : Bool := d.rd .entCell 0x110 (2 * (2 + p.idx)) == 1

/-- KEYGEN or KEYLOAD: NOT_READY while the source releases nothing; while the key instance reseeds, the command
waits for it. -/
def Dev.keyCommand (d : Dev) (p : Port) (cmd : Nat) : Dev :=
  d.reelGate p cmd fun d =>
    if !d.rdBool .entCell 0x104 8 then d.reelBusy p cmd 0x59 0xFFFF
    else if d.keyReady p then (d.keyInstall p cmd).reelBusy p cmd 0 0xFFFF
    else (d.reelBusy p cmd 0 0xFFFF).modReel p fun r => { r with waits := true }

def Dev.reelKeygen (d : Dev) (p : Port) : Dev := d.keyCommand p 3
def Dev.reelKeyload (d : Dev) (p : Port) : Dev := d.keyCommand p 4

def Dev.eraseKey (d : Dev) (p : Port) : Dev :=
  let pg := Page.reel p.idx
  ((d.modReel p fun r => { r with key := none }).wr pg 0x104 2 0).wr pg 0x104 3 0

def Dev.reelKeyclear (d : Dev) (p : Port) : Dev :=
  d.reelGate p 5 fun d => (d.eraseKey p).reelBusy p 5 0 0xFFFF

/-- REEL_COMMAND_DONE: busy clears and the result is shown; OK restores and every other result are counted. -/
def doReelCommandDone (p : Port) (d : Dev) : Dev :=
  let pg := Page.reel p.idx
  if !d.rdBool pg 0x104 0 || ((d.reel p).waits && !d.keyReady p) then d
  else
    let r := d.reel p
    let d := if r.waits then d.keyInstall p r.cmd else d
    let d := ((d.wr pg 0x104 0 0).wr pg 0x104 8 r.result).wr pg 0x104 16 r.record
    let d := d.modReel p fun r => { r with cmd := 0, waits := false }
    if r.result = 0 then (if r.cmd = 2 then d.bump pg 0x048 1 else d) else d.bump pg 0x050 1

end Sys2Proof.Machine
end

