-- ==== Sys2Proof/Machine/Pump.lean ====
section
/-!
DEFINITION. Pump engines, wells, completion rings and semaphores (R267 to R290).
-/

namespace Sys2Proof.Machine

/-! ### Engines, channels and wells -/

def Dev.pump (d : Dev) (n : Nat) : PumpSt := tget {} d.pumps n
def Dev.setPump (d : Dev) (n : Nat) (x : PumpSt) : Dev := { d with pumps := tput d.pumps n x }
def Dev.modPump (d : Dev) (n : Nat) (f : PumpSt → PumpSt) : Dev := d.setPump n (f (d.pump n))
def Dev.prog (d : Dev) (n : Nat) : Option Prog := (d.pump n).prog
def Dev.setProg (d : Dev) (n : Nat) (g : Option Prog) : Dev := d.modPump n fun x => { x with prog := g }
def Dev.chan (d : Dev) (n k : Nat) : Chan := tget {} (d.pump n).chans k
def Dev.setChan (d : Dev) (n k : Nat) (c : Chan) : Dev := d.modPump n fun x => { x with chans := tput x.chans k c }

def wellOf (n k : Nat) : Nat := 2048 * n + k

/-- Port whose partition owns an engine and its wells (R267). -/
def Dev.pumpPort (d : Dev) (n : Nat) : Option Port :=
  match d.owner (.pump n) with | 0 => some .a | 1 => some .b | _ => none

def Dev.wellHead (d : Dev) (w : Nat) : Nat := d.rd (.well w) 0x0C 0
def Dev.wellTail (d : Dev) (w : Nat) : Nat := d.rd (.well w) 0x0C 16
def Dev.wellSize (d : Dev) (w : Nat) : Nat := 2 ^ d.rd (.well w) 0x08 0
def Dev.wellOn (d : Dev) (w : Nat) : Bool := d.rdBool (.well w) 0x08 23

/-- May a channel run (R283): enabled, not halted, and an entry waits or a halted program is to resume. -/
def Dev.chanReady (d : Dev) (n k : Nat) : Bool :=
  let w := wellOf n k
  let c := d.chan n k
  d.wellOn w && c.halted.isNone && ((d.prog n).map (·.ch)) != some k && !((d.pump n).held.any (·.ch == k)) &&
    (c.resumed.isSome || d.wellHead w != d.wellTail w)

/-- WELL_STATUS follows the channel: 0 disabled, 1 idle, 2 ready, 3 running, 4 halted; 5 stopped stays until the
well is enabled. -/
def Dev.wellFollow (d : Dev) (n k : Nat) : Dev :=
  let w := wellOf n k
  let st := if ((d.prog n).map (·.ch)) = some k then 3
    else if (d.chan n k).halted.isSome then 4
    else if !d.wellOn w then (if d.rd (.well w) 0x10 0 = 5 then 5 else 0)
    else if d.chanReady n k then 2 else 1
  d.wr (.well w) 0x10 0 st

/-- PUMP_STATUS follows the engine. -/
def Dev.pumpFollow (d : Dev) (n : Nat) : Dev :=
  let pg := Page.pump n
  match d.prog n with
  | none => ((d.wr pg 0x104 0 0).wr pg 0x104 2 0).wr pg 0x104 4 0
  | some g =>
    let waits := match g.phase with | .cond _ | .ring => true | _ => false
    ((d.wr pg 0x104 0 1).wrBool pg 0x104 2 waits).wr pg 0x104 4 g.ch

/-- PUMP_CH_FAULT shows the channel selected. -/
def Dev.faultFollow (d : Dev) (n : Nat) : Dev :=
  let pg := Page.pump n
  let c := d.chan n (d.rd pg 0x108 0)
  let on := c.halted.isSome
  let v (x : Nat) : Nat := if on then x else 0
  let d := ((d.wrBool pg 0x10C 0 on).wr pg 0x10C 1 (v c.dir)).wr pg 0x10C 2 (v c.space)
  let d := (d.wr pg 0x10C 8 (v c.cause)).wr pg 0x10C 16 (v c.word)
  (d.wr pg 0x110 0 (v (c.addr % 2 ^ 32))).wr pg 0x114 0 (v (c.addr / 2 ^ 32 % 2 ^ 32))

/-! ### Doorbells (R269) -/

def Dev.setTail (d : Dev) (w tail : Nat) : Dev :=
  ((d.wr (.well w) 0x0C 16 tail).bump .wellHdr 0x040 1).wellFollow (w / 2048) (w % 2048)

/-- DOORBELL: an 8-byte write at BAR4 offset 8w of a port. -/
def doDoorbell (p : Port) (w value : Nat) (d : Dev) : Dev :=
  if 65536 ≤ w then d
  else if d.pumpPort (w / 2048) != some p then d.logErr .wellHdr 0x23 w
  else if d.wellSize w ≤ bits value 0 16 then d.logErr .wellHdr 0x22 w
  else d.setTail w (bits value 0 16)

/-! ### Completion rings (R279 to R281) -/

def cringOf (p : Port) (c : Nat) : Page := .cring (2048 * p.idx + c)

/-- A ring takes no entry while it is full or disabled. -/
def Dev.cringFull (d : Dev) (pg : Page) : Bool :=
  !d.rdBool pg 0x08 8 || (d.rd pg 0x0C 0 + 1) % 2 ^ d.rd pg 0x08 0 == d.rd pg 0x0C 16

/-- A completion entry (R280). -/
def cqEntry (w : Nat) (g : Prog) (x : PumpPost) (phase : Bool) : List Byte :=
  leBytes 2 w ++ leBytes 2 g.entry ++ leBytes 4 g.tag ++ leBytes 1 x.status ++ leBytes 1 phase.toNat ++
    leBytes 2 x.word ++ leBytes 4 x.value ++ leBytes 8 g.mismatch ++ leBytes 8 g.first

/-- Write an entry at the ring's tail and raise the vector where R281 asks for it: once for the entry, and once for the
SIGNAL that posts it (log 215). -/
def Dev.cqWrite (d : Dev) (n : Nat) (p : Port) (g : Prog) (x : PumpPost) : Dev :=
  let w := wellOf n g.ch
  let ring := d.rd (.well w) 0x08 12
  let pg := cringOf p ring
  let tail := d.rd pg 0x0C 0
  let phase := d.rdBool pg 0x10 1
  let base := 64 * d.rd pg 0x00 6 + 2 ^ 32 * d.rd pg 0x04 0
  let d := (d.emit (.hostWrite p (base + 32 * tail) (cqEntry w g x phase))).bump .wellHdr 0x048 1
  let next := (tail + 1) % 2 ^ d.rd pg 0x08 0
  let d := d.wr pg 0x0C 0 next
  let d := if next = 0 then d.wrBool pg 0x10 1 (!phase) else d
  let c := d.chan n g.ch
  let limit := d.rd (.well w) 0x08 24
  let raise := g.irq || x.status = 1 || x.status = 2 || x.status = 3 || x.status = 5 ||
    (limit != 0 && limit ≤ c.posted + 1)
  let d := d.setChan n g.ch { c with posted := if raise || x.irq then 0 else c.posted + 1 }
  let d := if raise then d.vector p ring else d
  if x.irq then d.vector p ring else d

/-! ### Ends of a program -/

/-- The engine is free; or the stopped channel that still waits to post holds it now (R279). -/
def Dev.pumpFree (d : Dev) (n : Nat) : Dev :=
  (match (d.pump n).held with
    | g :: gs => d.modPump n fun s => { s with prog := some g, held := gs }
    | [] => d.setProg n none).pumpFollow n

def Dev.headOn (d : Dev) (w : Nat) : Dev := d.wr (.well w) 0x0C 0 ((d.wellHead w + 1) % d.wellSize w)

/-- The program is over: head advances. -/
def Dev.progEnd (d : Dev) (n k : Nat) : Dev :=
  let d := (d.headOn (wellOf n k)).bump (.pump n) 0x040 1
  let d := if ((d.prog n).map (·.ch)) = some k then d.pumpFree n else d
  d.wellFollow n k

/-- A stopped program is over: the well is disabled and STOPPED (R286). -/
def Dev.progStopped (d : Dev) (n k : Nat) : Dev :=
  let w := wellOf n k
  let d := (d.wr (.well w) 0x08 23 0).wr (.well w) 0x10 0 5
  d.progEnd n k

/-- A program is over that was asked to stop in its last instruction: the well is disabled too, and nothing more posted
(log 212). -/
def Dev.progOver (d : Dev) (n : Nat) (g : Prog) : Dev :=
  let d := if g.stop then d.wr (.well (wellOf n g.ch)) 0x08 23 0 else d
  d.progEnd n g.ch

/-- After an entry is written: what its status means for the program. -/
def Dev.afterPost (d : Dev) (n : Nat) (g : Prog) (x : PumpPost) : Dev :=
  match x.status with
  | 2 => d.progStopped n g.ch
  | 1 | 5 => (d.pumpFree n).wellFollow n g.ch
  | 4 => (d.setProg n (some { g with post := none, pc := g.pc + 1, phase := .run })).pumpFollow n
  | _ => d.progOver n g

/-- Post an entry, or wait for space holding the engine: at once where it is free or the channel's own, else when the
program that runs is over (R279). -/
def Dev.post1 (d : Dev) (n : Nat) (g : Prog) (x : PumpPost) : Dev :=
  match d.pumpPort n with
  | none => d
  | some p =>
    let pg := cringOf p (d.rd (.well (wellOf n g.ch)) 0x08 12)
    if d.cringFull pg then
      let g := { g with post := some x, phase := .ring }
      let d := d.wr pg 0x10 0 1
      if ((d.prog n).map (·.ch)).getD g.ch = g.ch then (d.setProg n (some g)).pumpFollow n
      else d.modPump n fun s => { s with held := s.held ++ [g] }
    else (d.cqWrite n p g x).afterPost n g x

/-- Clear a channel's halt. -/
def Dev.unhalt (d : Dev) (n k : Nat) : Dev :=
  let pg := Page.pump n
  let o := 0x200 + 4 * (k / 32)
  let d := d.setChan n k { d.chan n k with halted := none }
  (d.wr pg o 0 (putBits (d.rd pg o 0) (k % 32) 1 0)).faultFollow n

/-- As `post1`; once a fault's entry is written, a stop asked for in the same instruction takes effect at once
(R286). -/
def Dev.post (d : Dev) (n : Nat) (g : Prog) (x : PumpPost) : Dev :=
  let waits := d.cringFull (cringOf ((d.pumpPort n).getD .a) (d.rd (.well (wellOf n g.ch)) 0x08 12))
  let d := d.post1 n g x
  if g.stop && !waits && (x.status = 1 || x.status = 5) then
    (d.unhalt n g.ch).post1 n g ⟨2, x.word, 0, false⟩
  else d

/-- Put a program among others in the order of their channels. -/
def byChannel (g : Prog) : List Prog → List Prog
  | [] => [g]
  | x :: xs => if g.ch < x.ch then g :: x :: xs else x :: byChannel g xs

/-- Programs that wait on a ring, in the order of their wells. -/
def Dev.ringWaiters (d : Dev) (p : Port) (ring : Nat) : List (Nat × Prog) :=
  (List.range 32).flatMap fun n =>
    if d.pumpPort n = some p then
      (((d.prog n).toList ++ (d.pump n).held).foldr byChannel []).filterMap fun g =>
        if g.post.isSome && d.rd (.well (wellOf n g.ch)) 0x08 12 == ring then some (n, g) else none
    else []

/-- Space may have appeared in a ring: those that wait for it post, the lower well first. How many beats they waited no
command says: WT_FULL_CNT rises by a free number (log 213). -/
def Dev.cringSpace (d : Dev) (p : Port) (ring : Nat) : Dev :=
  let d := if (d.ringWaiters p ring).isEmpty then d
    else let (n, d) := d.fresh; d.bump .wellHdr 0x050 n
  let d := (d.ringWaiters p ring).foldl (fun d x =>
    match x.2.post with
    | some e =>
      if d.cringFull (cringOf p ring) then d
      else
        let d := d.modPump x.1 fun s => { s with held := s.held.filter (· != x.2) }
        d.post x.1 { x.2 with post := none } e
    | none => d) d
  d.wrBool (cringOf p ring) 0x10 0 (!(d.ringWaiters p ring).isEmpty)

/-! ### Faults (R285) -/

/-- The channel halts at its instruction: the fault is latched, a FAULT (or BAD_PROGRAM) entry posted, the engine
freed. -/
def Dev.halt (d : Dev) (n : Nat) (g : Prog) (cause dir space addr : Nat) : Dev :=
  let pg := Page.pump n
  let c := d.chan n g.ch
  let kept := { g with fetch := [], phase := .run, post := none }
  let d := d.setChan n g.ch { c with
    halted := some kept, cause := cause, dir := dir, space := space, word := g.pc, addr := addr - addr % 64 }
  let d := (d.bump pg 0x058 1).logErr pg 0x20 (g.ch + cause * 2 ^ 16)
  let o := 0x200 + 4 * (g.ch / 32)
  let d := (d.wr pg o 0 (putBits (d.rd pg o 0) (g.ch % 32) 1 1)).faultFollow n
  let d := d.post n { kept with stop := g.stop } ⟨if cause = 8 then 5 else 1, g.pc % 2 ^ 16, 0, false⟩
  d.wellFollow n g.ch

/-! ### Words -/

def Prog.word (g : Prog) (i : Nat) : Nat := g.words.getD i 0
def pumpOp (w : Nat) : Nat := bits w 120 8
def Prog.op (g : Prog) : Nat := pumpOp (g.word g.pc)

/-- Reserved bits, codes and structure of the instruction at the program counter (R271, R272, R275, R285). -/
def Dev.badWord (d : Dev) (n : Nat) (g : Prog) : Bool :=
  let w := g.word g.pc
  let w1 := g.word (g.pc + 1)
  let far (space a : Nat) : Bool := space = 1 && bits a 48 16 != 0
  let two := g.nwords ≤ g.pc + 1 || bits w1 64 64 != 0
  match pumpOp w with
  | 0x80 | 0x82 =>
    two || bits w 116 4 != 0 || 1 < bits w 112 2 || 1 < bits w 114 2 || bits w 80 32 = 0 || bits w 64 16 != 0 ||
      far (bits w 112 2) w || far (bits w 114 2) w1
  | 0x81 => two || bits w 116 4 != 0 || bits w 112 2 != 0 || 1 < bits w 114 2 || bits w 80 32 = 0 || bits w 64 16 != 0 ||
      far (bits w 114 2) w
  | 0x83 =>
    bits w 112 8 != 0 || bits w 0 32 = 0 || bits w 32 16 = 0 || 4 ≤ g.loops.length ||
      g.nwords < g.pc + 1 + bits w 32 16
  | 0x84 =>
    bits w 114 6 != 0 || 2 < bits w 112 2 || bits w 80 32 != 0 ||
      (if bits w 112 2 = 0 then 4095 < bits w 0 16
       else bits w 16 32 != 0 || (if bits w 112 2 = 1 then 63 < bits w 0 16 else 5 < bits w 0 16))
  | 0x85 =>
    let t := bits w 48 16
    let p := d.owner (.pump n)
    bits w 116 4 != 0 || (bit w 112 && d.semPart (bits w 0 16) != p) ||
      (bit w 113 && (bits w 64 16 = 0 || d.wellSize t ≤ bits w 64 16 || d.owner (.pump (t / 2048)) != p))
  | 0x86 => bits w 113 7 != 0 || bits w 0 112 != 0
  | _ => true

/-- An inline program past its third word ends as at END. -/
def Prog.atEnd (g : Prog) : Bool := g.inline && g.nwords ≤ g.pc

/-- Where the program goes after a word: back into an open loop, or on. -/
def pumpNext (pc : Nat) : List PumpLoop → Nat × List PumpLoop
  | [] => (pc, [])
  | l :: ls =>
    if l.start + l.body ≤ pc then
      if 1 < l.left then (l.start, { l with left := l.left - 1, pass := l.pass + 1 } :: ls) else pumpNext pc ls
    else (pc, l :: ls)

/-- At an instruction boundary: a stop takes effect, a bad word halts, else the program goes on. -/
def Dev.boundary (d : Dev) (n : Nat) (g : Prog) : Dev :=
  let r := pumpNext g.pc g.loops
  let g := { g with pc := r.1, loops := r.2, fetch := [], phase := .run }
  let d := d.setProg n (some g)
  if g.stop then d.post n g ⟨2, g.pc % 2 ^ 16, 0, false⟩
  else if g.atEnd then d.pumpFollow n
  else if g.nwords ≤ g.pc || d.badWord n g then d.halt n g 8 0 0 0
  else d.pumpFollow n

/-- Past an instruction of `k` words. -/
def Dev.pumpOn (d : Dev) (n : Nat) (g : Prog) (k : Nat) : Dev := d.boundary n { g with pc := g.pc + k }

/-! ### Reads that leave the device -/

/-- Issue a read: to host memory, or to another device as service requests of up to three lines. None when no
route leads there, or an address that strides have moved names no device (REMOTE). The tag names the engine and the
read. -/
def Dev.issue (d : Dev) (n i : Nat) (f : Fetch) : Option Dev :=
  match d.pumpPort n with
  | none => none
  | some p =>
    if f.space = 0 then some (d.emit (.hostRead p f.addr f.len (2048 * n + i % 2048)))
    else if 2 ^ 48 ≤ f.addr then none
    else
      let r := d.sendTo (f.addr / 2 ^ 38) vcCtl [svcHeader 1 (f.len / 64) (f.addr % 2 ^ 38) (2048 * n + i % 2047)]
      if r.1 then some r.2 else none

/-- Start the reads of an instruction; the first that finds no route halts the channel. -/
def Dev.issueAll (d : Dev) (n : Nat) (g : Prog) (fs : List Fetch) (phase : PumpPhase) : Dev :=
  let r := fs.zipIdx.foldl (fun (acc : Option (Nat × Nat) × Dev) x =>
    match acc.1 with
    | some _ => acc
    | none =>
      match acc.2.issue n x.2 x.1 with
      | some d => (none, d)
      | none => (some (x.1.part, x.1.addr), acc.2)) (none, d)
  let g := { g with fetch := fs, phase := phase }
  match r.1 with
  | some (_, a) => r.2.halt n g 6 0 1 a
  | none => (r.2.setProg n (some g)).pumpFollow n

/-- Cut `n` bytes from `a` into requests of at most `k` bytes that cross no 4 KiB boundary. -/
def cutSpans (k : Nat) : Nat → Nat → Nat → List (Nat × Nat)
  | 0, _, _ => []
  | _, _, 0 => []
  | fuel + 1, a, n => let m := min (min n k) (4096 - a % 4096); (a, m) :: cutSpans k fuel (a + m) (n - m)

/-- Whole lines that hold a range, in requests of at most `k` bytes that cross no 4 KiB boundary (R274). -/
def lineFetches (part space k : Nat) (a n : Nat) : List Fetch :=
  let lo := a - a % 64
  let len := (a + n + 63) / 64 * 64 - lo
  (cutSpans k (len / 64) lo len).map fun x => { part := part, space := space, addr := x.1, len := x.2 }

/-- Is a global address on another device (R241)? -/
def Dev.remote (d : Dev) (space a : Nat) : Bool := space = 1 && a / 2 ^ 38 != d.devId

/-- Reads a range needs before it can be used: none where it lies on this device. -/
def Dev.fetchesOf (d : Dev) (part space a n : Nat) : List Fetch :=
  if space = 0 then lineFetches part 0 4096 a n
  else if d.remote space a then lineFetches part 1 192 a n
  else []

/-- The fetched byte at an address. -/
def fetchedByte (fs : List Fetch) (part a : Nat) : Option Byte :=
  fs.findSome? fun f =>
    if f.part = part && f.addr ≤ a && a < f.addr + f.len then f.data.bind fun bs => bs[a - f.addr]? else none

def allBytes : List (Option Byte) → Option (List Byte)
  | [] => some []
  | none :: _ => none
  | some b :: t => (allBytes t).map (b :: ·)

inductive Got where
  | ok (bs : List Byte)
  | missing
  | fault (cause addr : Nat)

/-- Bytes of a piece: fetched ones, or read here line by line. -/
def Dev.getPiece (d : Dev) (n : Nat) (g : Prog) (part space a k : Nat) : Got × Dev :=
  if space = 0 || d.remote space a then
    match allBytes ((List.range k).map fun i => fetchedByte g.fetch part (a + i)) with
    | some bs => (.ok bs, d)
    | none => (.missing, d)
  else
    let r := d.readLines (.pump n) (lines (a % 2 ^ 38) k) []
    match r.1 with
    | (bs, none) => (.ok bs, r.2)
    | (_, some (x, .lost)) => (.fault 2 x, r.2)
    | (_, some (x, _)) => (.fault 1 x, r.2)

/-- Write a piece, which lies in one line, to host memory, another device or this one. -/
def Dev.putPiece (d : Dev) (n : Nat) (g : Prog) (space a : Nat) (bs : List Byte) : Option (Nat × Nat) × Dev :=
  if space = 0 then
    match d.pumpPort n with
    | some p => (none, d.emit (.hostWrite p a bs))
    | none => (some (1, a), d)
  else if d.remote space a then
    if 2 ^ 48 ≤ a then (some (6, a), d) else
    let lo := a - a % 64
    let old := (List.range 64).map fun i => (fetchedByte g.fetch 2 (lo + i)).getD 0
    let line := old.take (a % 64) ++ bs ++ old.drop (a % 64 + bs.length)
    let words := (List.range 4).map fun j => leNat ((line.drop (16 * j)).take 16)
    let r := d.sendTo (a / 2 ^ 38) vcCtl (svcHeader 0 1 (lo % 2 ^ 38) (2048 * n + 2047) :: words)
    (if r.1 then none else some (6, a), r.2)
  else
    let r := d.localLine (.pump n) (a % 2 ^ 38) bs.length (some bs)
    match r.1 with
    | .ok _ => (none, r.2)
    | .lost => (some (2, a), r.2)
    | _ => (some (1, a), r.2)

/-- Space may have appeared in a ring; a program whose SIGNAL has posted goes on. -/
def Dev.cringServe (d : Dev) (p : Port) (ring : Nat) : Dev :=
  let ws := (d.ringWaiters p ring).filter fun x => (x.2.post.map (·.status)) == some 4
  ws.foldl (fun d x =>
    match d.prog x.1 with
    | some g => if g.ch == x.2.ch && g.phase == .run then d.boundary x.1 g else d
    | none => d) (d.cringSpace p ring)

/-! ### MOVE, FILL and COMPARE (R274, R275) -/

def signed32 (x : Nat) : Int := toSigned 32 x

/-- An address moved by the passes of the open loops. -/
def Prog.at_ (g : Prog) (dst : Bool) (a : Nat) : Nat :=
  let off := (g.loops.map fun l => (l.pass : Int) * (if dst then l.dst else l.src)).sum
  (((a : Int) + off) % (2 : Int) ^ 64).toNat

structure PumpArgs where
  op : Nat
  srcSpace : Nat
  dstSpace : Nat
  len : Nat
  src : Nat
  dst : Nat
  pattern : Nat

def Prog.args (g : Prog) : PumpArgs :=
  let w := g.word g.pc
  let w1 := bits (g.word (g.pc + 1)) 0 64
  if pumpOp w = 0x81 then
    ⟨0x81, 1, bits w 114 2, bits w 80 32, 0, g.at_ true (bits w 0 64), w1⟩
  else
    ⟨pumpOp w, bits w 112 2, bits w 114 2, bits w 80 32, g.at_ false (bits w 0 64), g.at_ true w1, 0⟩

/-- The pieces of a transfer: offsets and lengths, one piece per destination line (source line for COMPARE). -/
def pieces (x : PumpArgs) : List (Nat × Nat) :=
  let a := if x.op = 0x82 then x.src else x.dst
  (lines a x.len).map fun p => (p.1 - a, p.2)

def patternBytes (pattern a k : Nat) : List Byte :=
  (List.range k).map fun i => BitVec.ofNat 8 (bits pattern (8 * ((a + i) % 8)) 8)

/-- Bytes written to host memory or another device, over the fetched lines of the source that still wait their turn: a
line is read after the lines below it are written (R274, log 211). -/
def overlay (x : PumpArgs) (dst : Nat) (bs : List Byte) (fs : List Fetch) : List Fetch :=
  if x.srcSpace != x.dstSpace then fs
  else fs.map fun f =>
    if f.part = 0 && f.addr < dst + bs.length && dst < f.addr + f.len then
      { f with data := f.data.map fun old => old.zipIdx.map fun b =>
          let a := f.addr + b.2
          if dst ≤ a then (bs[a - dst]?).getD b.1 else b.1 }
    else f

/-- Unequal bytes of two lists and the index of the first. -/
def unequal : List Byte → List Byte → Nat → Nat × Option Nat
  | a :: as, b :: bs, i =>
    let r := unequal as bs (i + 1)
    if a = b then r else (r.1 + 1, some i)
  | _, _, _ => (0, none)

/-- Run the pieces until one has to wait or fails: the program so far, and the fault (cause, direction, space,
address) if any; and whether all are done. -/
def Dev.runPieces (d : Dev) (n : Nat) (x : PumpArgs) : Prog → List (Nat × Nat) →
    (Prog × Bool × Option (Nat × Nat × Nat × Nat)) × Dev
  | g, [] => ((g, true, none), d)
  | g, (o, k) :: rest =>
    let src := (x.src + o) % 2 ^ 64
    let dst := (x.dst + o) % 2 ^ 64
    let r := if x.op = 0x81 then (Got.ok (patternBytes x.pattern dst k), d) else d.getPiece n g 0 x.srcSpace src k
    match r.1 with
    | .missing => ((g, false, none), r.2)
    | .fault c a => ((g, false, some (c, 0, x.srcSpace, a)), r.2)
    | .ok bs =>
      if x.op = 0x82 then
        let q := r.2.getPiece n g 1 x.dstSpace dst k
        match q.1 with
        | .missing => ((g, false, none), q.2)
        | .fault c a => ((g, false, some (c, 0, x.dstSpace, a)), q.2)
        | .ok cs =>
          let u := unequal bs cs 0
          let first := match u.2 with
            | some i => if g.first = 2 ^ 64 - 1 && g.mismatch = 0 then src + i else g.first
            | none => g.first
          q.2.runPieces n x { g with mismatch := (g.mismatch + u.1) % 2 ^ 64, first := first } rest
      else
        let q := r.2.putPiece n g x.dstSpace dst bs
        match q.1 with
        | some (c, a) => ((g, false, some (c, 1, x.dstSpace, a)), q.2)
        | none =>
          let line := dst - dst % 64
          let g := if x.dstSpace = 0 then { g with lastHost := some line }
            else if d.remote 1 dst then
              { g with lastDev := some line, lastRemote := some line, rmt := some (g.pc, g.loops) }
            else { g with lastDev := some line }
          let g := { g with fetch := overlay x dst bs g.fetch }
          q.2.runPieces n x g rest

/-- Buffer parity of the engine (R352): an armed injection fires at the transfer. -/
def Dev.pumpParity (d : Dev) (n : Nat) (g : Prog) : Bool × Dev :=
  let pg := Page.pump n
  let (m, d) := d.fire pg
  if m = 0 then (true, d)
  else if m = 1 then (true, d.retryTransient pg)
  else
    let d := d.halt n g 7 0 0 0
    (false, d.lasting pg 0x21 g.ch none false (.pump n))

/-- All data of the instruction are here: run it to its end or its fault. -/
def Dev.finishMove (d : Dev) (n : Nat) (g : Prog) : Dev :=
  let x := g.args
  let r := d.runPieces n x g (pieces x)
  match r.1 with
  | (g', _, some (c, dir, space, a)) => 
    r.2.halt n { g with lastHost := g'.lastHost, lastRemote := g'.lastRemote, lastDev := g'.lastDev, rmt := g'.rmt }
      c dir space a
  | (g', true, none) =>
    let pg := Page.pump n
    let d := if x.op = 0x81 then r.2 else r.2.bump pg 0x048 (if x.op = 0x82 then 2 * x.len else x.len)
    let d := if x.op = 0x82 then d else d.bump pg 0x050 x.len
    d.pumpOn n { g' with fetch := [] } 2
  | (_, false, none) => r.2

/-- Reads an instruction needs first. A remote destination line written in part is read to be merged, since a
service write carries whole lines. -/
def Dev.moveFetches (d : Dev) (x : PumpArgs) : List Fetch :=
  let src := if x.op = 0x81 then [] else d.fetchesOf 0 x.srcSpace x.src x.len
  let ref := if x.op = 0x82 then d.fetchesOf 1 x.dstSpace x.dst x.len else []
  let edge := if x.op != 0x82 && d.remote x.dstSpace x.dst then
      ((lines x.dst x.len).filter (·.2 != 64)).map fun p =>
        { part := 2, space := 1, addr := p.1 - p.1 % 64, len := 64 : Fetch }
    else []
  src ++ ref ++ edge

/-- The running program of an engine when it stands at an instruction of the given opcode. -/
def Dev.atOp (d : Dev) (n op : Nat) : Option Prog :=
  if 32 ≤ n then none
  else match d.prog n with
    | some g => if g.phase == .run && !g.atEnd && g.op == op then some g else none
    | none => none

def Dev.pumpMove (d : Dev) (n op : Nat) : Dev :=
  match d.atOp n op with
  | none => d
  | some g =>
    let r := d.pumpParity n g
    if !r.1 then r.2
    else
      let fs := r.2.moveFetches g.args
      if fs.isEmpty then r.2.finishMove n g else r.2.issueAll n g fs .data

/-- MOVE. -/
def doMove (n : Nat) (d : Dev) : Dev := d.pumpMove n 0x80
/-- FILL. -/
def doFill (n : Nat) (d : Dev) : Dev := d.pumpMove n 0x81
/-- COMPARE. -/
def doCompare (n : Nat) (d : Dev) : Dev := d.pumpMove n 0x82

/-- LOOP. -/
def doPumpLoop (n : Nat) (d : Dev) : Dev :=
  match d.atOp n 0x83 with
  | none => d
  | some g =>
    let w := g.word g.pc
    let l : PumpLoop := ⟨g.pc + 1, bits w 32 16, bits w 0 32, 0, signed32 (bits w 48 32), signed32 (bits w 80 32)⟩
    d.pumpOn n { g with loops := l :: g.loops } 1

/-! ### WAIT (R276) -/

/-- Does the condition of the WAIT at the program counter hold? -/
def Dev.waitHolds (d : Dev) (n : Nat) (g : Prog) (since : Nat) : Bool :=
  let w := g.word g.pc
  match d.pumpPort n with
  | none => false
  | some p =>
    match bits w 112 2 with
    | 0 => decide (bits w 16 32 ≤ d.sem (bits w 0 16))
    | 1 => decide (since < tget 0 d.rels ((d.clapRange p).1 + bits w 0 16))
    | _ => d.takeState p == bits w 0 16

/-- WAIT: the program waits from now on. -/
def doWait (n : Nat) (d : Dev) : Dev :=
  match d.atOp n 0x84, d.pumpPort n with
  | some g, some p =>
    let w := g.word g.pc
    (d.setProg n (some { g with phase := .cond (tget 0 d.rels ((d.clapRange p).1 + bits w 0 16)) })).pumpFollow n
  | _, _ => d

/-- WAIT_CONDITION_MET at an engine, after `beats` beats of waiting. -/
def Dev.waitMet (d : Dev) (n beats : Nat) : Dev :=
  if 32 ≤ n then d
  else match d.prog n with
    | some g =>
      (match g.phase with
        | .cond since => if d.waitHolds n g since then (d.bump (.pump n) 0x060 beats).pumpOn n g 1 else d
        | _ => d)
    | none => d

/-- WAIT_TIMEOUT. -/
def doWaitTimeout (n : Nat) (d : Dev) : Dev :=
  if 32 ≤ n then d
  else match d.prog n with
    | some g =>
      (match g.phase with
        | .cond since =>
          let t := bits (g.word g.pc) 64 16
          if t = 0 || d.waitHolds n g since then d
          else (d.bump (.pump n) 0x060 (1024 * t)).post n g ⟨3, g.pc % 2 ^ 16, 0, false⟩
        | _ => d)
    | none => d

/-! ### SIGNAL and END (R277, R278, R282) -/

/-- Lines that confirm arrival (R282): the last one written in each destination space; under `all responses` (2), where
writes on this device have their responses already, the last one on another device (log 102). -/
def Prog.confirmReads (g : Prog) : List Fetch :=
  if g.confirm = 0 then []
  else (g.lastHost.toList.map fun a => { part := 3, space := 0, addr := a, len := 64 : Fetch }) ++
    ((if g.confirm = 2 then g.lastRemote else g.lastDev).toList.map fun a =>
      { part := 3, space := 1, addr := a, len := 64 : Fetch })

/-- Read back the lines of this device that confirm arrival: the first that fails (cause, address) if any. -/
def Dev.confirmHere (d : Dev) (n : Nat) (g : Prog) : Option (Nat × Nat) × Dev :=
  (g.confirmReads.filter fun f => f.space = 1 && !d.remote 1 f.addr).foldl (fun acc f =>
    match acc.1 with
    | some _ => acc
    | none =>
      let r := acc.2.localLine (.pump n) (f.addr % 2 ^ 38) 64 none
      match r.1 with
      | .ok _ | .merging | .waits => (none, r.2)
      | .lost => (some (2, f.addr), r.2)
      | .refused _ => (some (1, f.addr), r.2)) (none, d)

/-- The actions of SIGNAL, in their order. -/
def Dev.signalActs (d : Dev) (n : Nat) (g : Prog) : Dev :=
  let w := g.word g.pc
  let g := { g with fetch := [] }
  let d := if bit w 112 then d.addSem (bits w 0 16) (bits w 16 32) else d
  let t := bits w 48 16
  let d := if bit w 113 then d.setTail t ((d.wellTail t + bits w 64 16) % d.wellSize t) else d
  if bit w 114 then
    let d := d.setProg n (some g)
    let d := d.post n g ⟨4, g.pc % 2 ^ 16, bits w 80 32, bit w 115⟩
    match d.prog n with
    | some g' => if g'.phase == .run then d.boundary n g' else d
    | none => d
  else
    let d := match d.pumpPort n with
      | some p => if bit w 115 then
          let d := d.setChan n g.ch { d.chan n g.ch with posted := 0 }
          d.vector p (d.rd (.well (wellOf n g.ch)) 0x08 12) else d
      | none => d
    d.pumpOn n g 1

def Dev.endActs (d : Dev) (n : Nat) (g : Prog) : Dev :=
  let quiet := !g.atEnd && bit (g.word g.pc) 112
  if quiet then d.progOver n g else d.post n { g with fetch := [] } ⟨0, g.pc % 2 ^ 16, 0, false⟩

/-- Confirm arrival, then act: what this device can read at once, then what it has to fetch. -/
def Dev.confirmThen (d : Dev) (n : Nat) (g : Prog) (act : Dev → Dev) : Dev :=
  match d.confirmHere n g with
  | (some (c, a), d) => d.halt n g c 0 1 a
  | (none, d) =>
    let fs := g.confirmReads.filter fun f => f.space = 0 || d.remote 1 f.addr
    if fs.isEmpty then act d else d.issueAll n g fs .data

/-- SIGNAL. -/
def doSignal (n : Nat) (d : Dev) : Dev :=
  match d.atOp n 0x85 with
  | none => d
  | some g => d.confirmThen n g (·.signalActs n g)

/-- END, or the end of an inline program. -/
def doPumpEnd (n : Nat) (d : Dev) : Dev :=
  if 32 ≤ n then d
  else match d.prog n with
    | none => d
    | some g =>
      if g.phase == .run && (g.atEnd || g.op == 0x86) then
        d.confirmThen n g (·.endActs n g)
      else d

/-! ### Starting a program (R270, R283) -/

/-- The words are here: run from word 0. -/
def Dev.progWords (d : Dev) (n : Nat) (g : Prog) (words : List Nat) : Dev :=
  d.boundary n { g with words := words, nwords := words.length, pc := 0, fetch := [] }

def wordsOf (bs : List Byte) (k : Nat) : List Nat := (List.range k).map fun i => leNat ((bs.drop (16 * i)).take 16)

/-- The well entry is here (R270): its program follows, or is fetched. -/
def Dev.gotEntry (d : Dev) (n : Nat) (g : Prog) (bs : List Byte) : Dev :=
  let e := leNat (bs.take 64)
  let kind := bits e 0 8
  let prog := bits e 64 64
  let words := bits e 16 16
  let space := bits e 11 1
  let g := { g with confirm := bits e 8 2, irq := bit e 10, tag := bits e 32 32, inline := kind == 1 }
  let d := d.setProg n (some g)
  let bad := bits e 8 2 = 3 || bits e 12 4 != 0 ||
    (if kind = 1 then words != 0 || prog != 0 || space != 0
     else kind != 2 || words = 0 || prog % 16 != 0 || bits e 128 384 != 0 || (space = 1 && 2 ^ 48 ≤ prog))
  if bad then d.halt n g 8 0 0 0
  else if kind = 1 then d.progWords n g (wordsOf (bs.drop 16) 3)
  else if space = 1 && !d.remote 1 prog then
    let r := d.readLines (.pump n) (lines (prog % 2 ^ 38) (16 * words)) []
    match r.1 with
    | (bs, none) => r.2.progWords n g (wordsOf bs words)
    | (_, some (a, s)) => r.2.halt n g (if s == .lost then 2 else 1) 0 1 a
  else
    let g := { g with nwords := words, prog := prog }
    d.issueAll n g (if space = 0 then [{ part := 5, space := 0, addr := prog, len := 16 * words }]
      else lineFetches 5 1 192 prog (16 * words)) .load

/-- Ready channels of an engine in rank order is by priority, then least recently granted, then number. -/
def Dev.chanKey (d : Dev) (n k : Nat) : Nat :=
  (15 - d.rd (.well (wellOf n k)) 0x08 8) * 2 ^ 80 + (tget 0 (d.pump n).last k) * 2 ^ 12 + k

def Dev.readyChans (d : Dev) (n : Nat) : List Nat := (List.range 2048).filter (d.chanReady n)

def Dev.chanPick (d : Dev) (n : Nat) : Option Nat :=
  match d.readyChans n with
  | [] => none
  | k :: ks => some (ks.foldl (fun m x => if d.chanKey n x < d.chanKey n m then x else m) k)

/-- The read of the entry at a well's head. -/
def entryFetch (d : Dev) (w : Nat) : Fetch :=
  let base := 64 * d.rd (.well w) 0x00 6 + 2 ^ 32 * d.rd (.well w) 0x04 0
  { part := 4, space := 0, addr := base + 64 * d.wellHead w, len := 64 }

/-- An engine that waits at its injection arbiter reads the entry of the channel it will run next (R284, log 104); the
read has index 2,047. -/
def Dev.readAhead (d : Dev) (n : Nat) : Dev :=
  match d.chanPick n, d.pumpPort n with
  | some k, some _ =>
    let a : Ahead := { ch := k, entry := d.wellHead (wellOf n k) }
    if ((d.pump n).ahead.map fun x => (x.ch, x.entry)) = some (a.ch, a.entry) then d
    else ((d.modPump n fun s => { s with ahead := some a }).issue n 2047 (entryFetch d (wellOf n k))).getD d
  | _, _ => d

/-- PROGRAM_START: the engine chooses a ready channel, which waited `waited` beats, and fetches its entry; a
resumed program goes on at its instruction, or fetches again what it could not load. Waiting channels receive their
hints. -/
def doProgramStart (n waited : Nat) (d : Dev) : Dev :=
  if 32 ≤ n || (d.prog n).isSome || !(d.pump n).held.isEmpty || !d.rdBool (.pump n) 0x014 0 then d
  else match d.chanPick n, d.pumpPort n with
    | some k, some _ =>
      let w := wellOf n k
      let others := (d.readyChans n).filter (· != k)
      let d := others.foldl (fun d x =>
        d.wr (.well (wellOf n x)) 0x10 4 (min 15 ((others.filter fun y => d.chanKey n y < d.chanKey n x).length))) d
      let d := if d.rd (.well w) 0x18 0 < waited then d.wr (.well w) 0x18 0 (min waited (2 ^ 32 - 1)) else d
      let d := d.modPump n fun s => { s with order := s.order + 1, last := tput s.last k (s.order + 1) }
      let c := d.chan n k
      let load (d : Dev) : Dev :=
        let g : Prog := { ch := k, entry := d.wellHead w }
        match (d.pump n).ahead with
        | some ⟨ch, entry, some bs⟩ =>
          let d := d.modPump n fun s => { s with ahead := none }
          if ch = k && entry = g.entry then d.gotEntry n g bs else d.issueAll n g [entryFetch d w] .load
        | _ => (d.modPump n fun s => { s with ahead := none }).issueAll n g [entryFetch d w] .load
      (match c.resumed with
        | some g =>
          let d := d.setChan n k { c with resumed := none }
          if g.words.isEmpty then load d else d.boundary n { g with stop := false }
        | none => load d).wellFollow n k
    | _, _ => d

/-! ### Data arrive, or do not -/

/-- Every read of the program has its data: go on. -/
def Dev.pumpGot (d : Dev) (n : Nat) (g : Prog) : Dev :=
  let d := d.setProg n (some g)
  let whole (part : Nat) : List Byte := (g.fetch.filter (·.part == part)).flatMap fun f => f.data.getD []
  if !(g.fetch.all (·.data.isSome)) then d
  else match g.phase with
    | .load =>
      (match g.fetch with
        | f :: _ => if f.part = 4 then d.gotEntry n g (whole 4) else
            d.progWords n g (wordsOf ((whole 5).drop (g.prog - f.addr)) g.nwords)
        | [] => d)
    | .data =>
      if g.atEnd || g.op = 0x86 then d.endActs n g
      else if g.op = 0x85 then d.signalActs n g
      else d.finishMove n g
    | _ => d

def Dev.fetchGot (d : Dev) (n i : Nat) (bs : List Byte) : Dev :=
  match d.prog n with
  | some g =>
    (match g.fetch[i]? with
      | some f =>
        if f.data.isSome then d
        else
          let d := if f.retried then d.retryTransient (.pump n) else d
          let bs := bs.take f.len ++ List.replicate (f.len - bs.length) 0
          d.pumpGot n { g with fetch := setAt g.fetch i { f with data := some bs } }
      | none => d)
  | none => d

/-- A read failed: retried once where its cause allows, else what came before it is used and the channel halts. -/
def Dev.fetchFail (d : Dev) (n i cause : Nat) : Dev :=
  match d.prog n with
  | some g =>
    (match g.fetch[i]? with
      | some f =>
        if f.data.isSome then d
        else if (cause = 4 || cause = 5) && !f.retried then
          let f := { f with retried := true }
          let d := d.setProg n (some { g with fetch := setAt g.fetch i f })
          (d.issue n i f).getD d
        else
          let d := if f.retried then d.retryLasting (.pump n) else d
          let x := g.args
          let moves := g.phase == .data && (g.op == 0x80 || g.op == 0x82)
          let before := { g with fetch := (g.fetch.take i) ++ (g.fetch.drop i).filter (·.part == 2) }
          let d := if moves then (d.runPieces n x before (pieces x)).2 else d
          d.halt n g cause 0 f.space f.addr
      | none => d)
  | none => d

/-- The read whose data are still out among those with a tag: tags count modulo 2,047. -/
def fetchOfTag (tag : Nat) (fs : List Fetch) : Option Nat :=
  (fs.zipIdx.find? fun x => x.2 % 2047 == tag && x.1.data.isNone && x.1.space == 1).map (·.2)

/-- HOST_COMPLETION: data (status 0), or UR/CA (1), a completion timeout (2), poisoned data (3), for read i of
engine n; read 2,047 may be that of an entry read ahead, which a failed read leaves to be read in its turn. A completion
that no read of the engine waits for is dropped (R331). -/
def doHostCompletion (n i status : Nat) (bs : List Byte) (d : Dev) : Dev :=
  match (d.prog n).bind fun g => (g.fetch[i]?).filter (·.data.isNone) with
  | some f =>
    if 32 ≤ n || f.space != 0 then d
    else if status = 0 then d.fetchGot n i bs
    else if status = 1 then d.fetchFail n i 3
    else if status = 2 then d.fetchFail n i 4
    else if status = 3 then d.fetchFail n i 5
    else d
  | none =>
    if 32 ≤ n || i != 2047 then d
    else
      let got (a : Ahead) : Option Ahead :=
        if a.data.isSome then some a
        else if status = 0 && bs.length = 64 then some { a with data := some bs }
        else none
      d.modPump n fun s => { s with ahead := s.ahead.bind got }

/-- PUMP_FAULT: a transaction of the running instruction meets an error; `again`: the retry fails too. -/
def doPumpFault (n cause dir space addr : Nat) (again : Bool) (d : Dev) : Dev :=
  if 32 ≤ n || cause = 0 || 8 ≤ cause then d
  else match d.prog n with
    | some g =>
      if !(g.phase == .run || g.phase == .data) then d
      else if (cause = 4 || cause = 5 || cause = 7) && !again then d.retryTransient (.pump n)
      else
        let d := if cause = 4 || cause = 5 then d.retryLasting (.pump n) else d
        let d := d.halt n g cause (dir % 2) (space % 2) (addr % 2 ^ 64)
        if cause = 7 then d.lasting (.pump n) 0x21 g.ch none false (.pump n) else d
    | none => d

/-! ### WELL_CTRL (R285, R286) -/

def Dev.wellStop (d : Dev) (n k : Nat) : Dev :=
  let w := wellOf n k
  match d.prog n, (d.chan n k).halted with
  | some g, h =>
    if g.ch = k then
      (match g.phase with
        | .run => d.boundary n { g with stop := true }
        | .cond _ => d.boundary n { g with stop := true }
        | _ => d.setProg n (some { g with stop := true }))
    else (match h with
      | some x => ((d.unhalt n k).post n x ⟨2, x.pc % 2 ^ 16, 0, false⟩).wellFollow n k
      | none => ((d.wr (.well w) 0x08 23 0).setChan n k { d.chan n k with resumed := none }).wellFollow n k)
  | none, some x => ((d.unhalt n k).post n x ⟨2, x.pc % 2 ^ 16, 0, false⟩).wellFollow n k
  | none, none => ((d.wr (.well w) 0x08 23 0).setChan n k { d.chan n k with resumed := none }).wellFollow n k

def Dev.wellResume (d : Dev) (n k : Nat) : Dev :=
  match (d.chan n k).halted with
  | some g =>
    let d := d.unhalt n k
    (d.setChan n k { d.chan n k with resumed := some g }).wellFollow n k
  | none => d

def Dev.wellSkip (d : Dev) (n k : Nat) : Dev :=
  match (d.chan n k).halted with
  | some _ => (d.unhalt n k).progEnd n k
  | none => d

/-- WELL_CTRL written by the host of the owning port. -/
def Dev.wellCtrlWrite (d : Dev) (w v : Nat) : Dev :=
  let n := w / 2048
  let k := w % 2048
  let d := if bit v 1 then d.wellResume n k else d
  let d := if bit v 2 then d.wellSkip n k else d
  if bit v 0 then d.wellStop n k else d

/-- WELL_CFG written: while the well is enabled only `prio` and `irq_count` change, and CFG_BUSY is logged (the table of
coincidences). -/
def Dev.wellCfgWrite (d : Dev) (w v : Nat) : Dev :=
  let pg := Page.well w
  if wordReserved pg 0x08 v then d
  else
    let d := if d.wellOn w then
        ((d.wr pg 0x08 8 (bits v 8 4)).wr pg 0x08 24 (bits v 24 8)).logErr .wellHdr 0x24 w
      else
        let d := d.putFields pg 0x08 v fun f => f.acc == .rw
        if bit v 23 then (d.wr pg 0x0C 0 0).wr pg 0x0C 16 0 else d
    d.wellFollow (w / 2048) (w % 2048)

/-- CRING_CFG written: enabling sets head and tail to 0 and the phase to 1. -/
def Dev.cringCfgWrite (d : Dev) (i v : Nat) : Dev :=
  let pg := Page.cring i
  if wordReserved pg 0x08 v then d
  else
    let was := d.rdBool pg 0x08 8
    let d := d.putFields pg 0x08 v fun f => f.acc == .rw
    let d := if !was && bit v 8 then ((d.wr pg 0x0C 0 0).wr pg 0x0C 16 0).wr pg 0x10 1 1 else d
    d.cringServe (Port.ofIdx (i / 2048)) (i % 2048)

/-- CRING_PTR.head written. -/
def Dev.cringHeadWrite (d : Dev) (i v : Nat) : Dev :=
  (d.wr (.cring i) 0x0C 16 (bits v 16 16)).cringServe (Port.ofIdx (i / 2048)) (i % 2048)

/-! ### Port reset (R288) -/

/-- Every program of the port's engines is abandoned; its wells, rings and semaphores return to reset. -/
def Dev.resetPumps (d : Dev) (p : Port) : Dev :=
  let engines := (List.range 32).filter fun n => d.owns p (.pump n)
  let d := engines.foldl (fun d n =>
    let hit (k : Nat) : Bool :=
      let a := k / 32
      decide (0x1000000 + 0x10000 * n ≤ a ∧ a < 0x1000000 + 0x10000 * (n + 1)) ||
        decide ((Page.pump n).base + 0x200 ≤ a ∧ a < (Page.pump n).base + 0x300)
    let d := (d.setPump n {}).pumpFollow n
    let d := { d with regs := d.regs.resetWhere hit }
    d.faultFollow n) d
  let sems := (List.range 4096).filter fun s => d.semPart s == p.idx
  let hit (k : Nat) : Bool :=
    let a := k / 32
    let r := 0x1210000 + 32 * 2048 * p.idx
    decide (r ≤ a ∧ a < r + 32 * 2048) ||
      (decide (0x1230000 ≤ a ∧ a < 0x1234000) && sems.contains ((a - 0x1230000) / 4))
  { d with regs := d.regs.resetWhere hit }

end Sys2Proof.Machine
end

