-- ==== Sys2Proof/Machine/Arbiter.lean ====
section
/-!
DEFINITION. Service arbiters (R255 to R266): requests, decisions, revocations, withdrawals and burst expiries at
the vault ports and the injection points. A beat is the arbiter's own beat number.
-/

namespace Sys2Proof.Machine

/-- Port `q` of arbiter page `i`. -/
structure ArbAt where
  i : Nat
  q : Nat
  deriving DecidableEq, Repr

def ArbAt.ok (a : ArbAt) : Bool := (a.i < 64 && a.q < 8) || (64 ≤ a.i && a.i < 68 && a.q = 0)
def ArbAt.pg (a : ArbAt) : Page := .arb a.i
def ArbAt.key (a : ArbAt) : Nat := 8 * a.i + a.q

def Dev.arb (d : Dev) (a : ArbAt) : ArbPort := tget {} d.arbs a.key
def Dev.setArb (d : Dev) (a : ArbAt) (x : ArbPort) : Dev := { d with arbs := tput d.arbs a.key x }

/-- Class of a requester (R255); none where the code is reserved. -/
def arbClass (i k : Nat) : Option Nat :=
  if i < 64 then
    if k < 2 then some 0 else if k < 4 then some 1 else if k < 6 then some 2 else if k < 8 then none
    else if k < 12 then some 3 else if k < 16 then some 4 else none
  else if k < 8 then some 3
  else if k = 8 && (i = 64 || i = 66) then some 0
  else if k = 9 && i = 64 then some 2
  else none

/-- Longest transfer: 64 lines at a vault port, 32 flits at an injection point. -/
def arbMax (i : Nat) : Nat := if i < 64 then 64 else 32

/-- Rank of a waiting request, smaller first: priority, least recently granted, code. -/
def Dev.arbRank (d : Dev) (a : ArbAt) (x : ArbReq) : Nat :=
  (15 - d.rd a.pg (0x200 + 4 * x.req) 0) * 2 ^ 80 + (tget 0 (d.arb a).last x.req) * 16 + x.req

def Dev.arbAhead (d : Dev) (a : ArbAt) (ws : List ArbReq) (x : ArbReq) : Nat :=
  (ws.filter fun y => d.arbRank a y < d.arbRank a x).length

/-- ARB_HOLDER and ARB_STATUS.busy follow the port at a beat. -/
def Dev.arbFollow (d : Dev) (a : ArbAt) (beat : Nat) : Dev :=
  let o := 0x300 + 4 * a.q
  let busy := d.rd a.pg 0x104 8
  match (d.arb a).holder with
  | some h =>
    let d := (d.wr a.pg o 0 h.req).wr a.pg o 4 1
    (d.wr a.pg o 16 (min 65535 (beat + 1 - h.first))).wr a.pg 0x104 8 (putBits busy a.q 1 1)
  | none => (((d.wr a.pg o 0 0).wr a.pg o 4 0).wr a.pg o 16 0).wr a.pg 0x104 8 (putBits busy a.q 1 0)

/-- A pump engine that waits at an injection point sleeps at a hint of `sleep_hint` or more, and wakes below it; at a hint
of 1 or more it reads the entry it will run next (R284). -/
def Dev.arbSleep (d : Dev) (a : ArbAt) (k hint : Nat) : Dev :=
  if 64 ≤ a.i && k < 8 then
    let pg := Page.pump (8 * (a.i - 64) + k)
    let s := d.rd pg 0x100 4
    let d := d.wrBool pg 0x104 1 (s != 0 && s ≤ hint)
    if hint = 0 then d else d.readAhead (8 * (a.i - 64) + k)
  else d

/-- The arbiter decides in a beat: the first in rank holds the port from the next beat, and its wait from the request
to the first beat of use may be its longest; every other waiting requester gets its hint (R256, R257, R262, R263). -/
def Dev.arbDecide (d : Dev) (a : ArbAt) (beat : Nat) : Dev :=
  let x := d.arb a
  match x.waiting with
  | [] => (d.setArb a { x with holder := none }).arbFollow a beat
  | w :: ws =>
    let g := ws.foldl (fun m y => if d.arbRank a y < d.arbRank a m then y else m) w
    let rest := x.waiting.erase g
    let hints := rest.map fun y => (y.req, min 15 (d.arbAhead a rest y))
    let o := 0x400 + 0x40 * a.q + 4 * g.req
    let wait := min (beat + 1 - g.since) (2 ^ 32 - 1)
    let d := if d.rd a.pg o 0 < wait then d.wr a.pg o 0 wait else d
    let d := (d.bump a.pg 0x040 1).wr a.pg 0x104 0 1
    let d := d.wr a.pg (0x600 + 0x40 * a.q + 4 * g.req) 4
      (rest.any (·.req == g.req)).toNat
    let d := d.setArb a { waiting := rest, holder := some ⟨g.req, g.len, g.left, beat + 1⟩,
                          last := tput x.last g.req (x.order + 1), order := x.order + 1 }
    let d := hints.foldl (fun d h =>
      (d.wr a.pg (0x600 + 0x40 * a.q + 4 * h.1) 0 h.2).arbSleep a h.1 h.2) d
    d.arbFollow a beat

/-- A request joins those that wait, a holder's own transfer before what the requester asks for next. At a held port it
has a hint: those ahead of it, or 15 before the arbiter's first grant (R263). -/
def Dev.arbWait (d : Dev) (a : ArbAt) (r : ArbReq) (resumes : Bool) : Dev :=
  let x := d.arb a
  let o := 0x600 + 0x40 * a.q + 4 * r.req
  let ws := if resumes then r :: x.waiting else x.waiting ++ [r]
  let hint := if d.rd a.pg 0x104 0 = 1 then min 15 (d.arbAhead a ws r) else 15
  let d := (d.setArb a { x with waiting := ws }).wr a.pg o 4 1
  if x.holder.isNone then d else (d.wr a.pg o 0 hint).arbSleep a r.req hint

/-- SERVICE_REQUEST: the requests, with their transfer lengths, that are present at the start of a beat; the holder may
ask for its next transfer (R257). -/
def doServiceRequest (i q : Nat) (reqs : List (Nat × Nat)) (beat : Nat) (d : Dev) : Dev :=
  let a : ArbAt := ⟨i, q⟩
  if !a.ok then d
  else
    let d := reqs.foldl (fun d r =>
      let x := d.arb a
      if (arbClass i r.1).isNone || r.2 = 0 || arbMax i < r.2 || x.waiting.any (·.req == r.1) then d
      else d.arbWait a ⟨r.1, r.2, r.2, beat⟩ false) d
    if (d.arb a).holder.isNone then d.arbDecide a beat else d.arbFollow a beat

/-- Beats of a grant used by the end of a beat. -/
def ArbHold.used (h : ArbHold) (beat : Nat) : Nat := beat + 1 - h.first

/-- Beats a grant may use: its transfer, or the burst limit (R261). -/
def Dev.arbLimit (d : Dev) (a : ArbAt) (h : ArbHold) : Nat :=
  let b := d.rd a.pg (0x240 + 4 * h.req) 0
  if b = 0 then h.left else min h.left b

/-- ARBITER_DECISION: the last beat of a grant whose transfer ends. A write of ARB_PRIO that arrives in this beat is
commanded after it (R258, log 208). -/
def doArbiterDecision (i q beat : Nat) (d : Dev) : Dev :=
  let a : ArbAt := ⟨i, q⟩
  match (d.arb a).holder with
  | some h =>
    if a.ok && beat + 1 = h.first + h.left then
      (d.setArb a { d.arb a with holder := none }).arbDecide a beat
    else d
  | none => d

/-- BURST_EXPIRY: the grant has used its limit, or more where the limit was lowered meanwhile; the transfer is suspended
and ranks again for its rest. -/
def doBurstExpiry (i q beat : Nat) (d : Dev) : Dev :=
  let a : ArbAt := ⟨i, q⟩
  match (d.arb a).holder with
  | some h =>
    let n := h.used beat
    if a.ok && h.first ≤ beat && d.arbLimit a h ≤ n && n < h.left then
      let d := (d.setArb a { d.arb a with holder := none }).bump a.pg 0x058 1
      (d.arbWait a ⟨h.req, h.len, h.left - n, beat + 1⟩ true).arbDecide a beat
    else d
  | none => d

/-- REVOCATION: in a beat that does not end its transfer a revocable grant is taken away by a waiting requester of
strictly higher priority; the transfer waits anew from the next beat, and starts over. -/
def doRevocation (i q beat : Nat) (d : Dev) : Dev :=
  let a : ArbAt := ⟨i, q⟩
  match (d.arb a).holder with
  | some h =>
    let prio (k : Nat) : Nat := d.rd a.pg (0x200 + 4 * k) 0
    let revocable := match arbClass i h.req with
      | some c => bit (d.rd a.pg 0x108 0) c
      | none => false
    if a.ok && revocable && h.first ≤ beat && beat + 1 < h.first + h.left && (d.arb a).waiting.any (fun w => prio h.req < prio w.req) then
      let d := (d.setArb a { d.arb a with holder := none }).bump a.pg 0x048 1
      (d.arbDecide a beat).arbWait a ⟨h.req, h.len, h.len, beat + 1⟩ true
    else d
  | none => d

/-- Is a requester a pump engine that sleeps? -/
def Dev.arbAsleep (d : Dev) (a : ArbAt) (k : Nat) : Bool :=
  64 ≤ a.i && k < 8 && d.rdBool (.pump (8 * (a.i - 64) + k)) 0x104 1

/-- WITHDRAWAL: the holder withdraws before its first beat, which stays unused. An engine that was asleep when it was
granted wakes and asks again in the beat after (R284). -/
def doWithdrawal (i q beat : Nat) (d : Dev) : Dev :=
  let a : ArbAt := ⟨i, q⟩
  match (d.arb a).holder with
  | some h =>
    if a.ok && beat = h.first then
      let d := (d.setArb a { d.arb a with holder := none }).bump a.pg 0x050 1
      let asleep := d.arbAsleep a h.req
      let d := (d.arbSleep a h.req 0).arbDecide a beat
      if !asleep then d
      else
        let d := d.arbWait a ⟨h.req, h.len, h.left, beat + 1⟩ true
        if (d.arb a).holder.isNone then d.arbDecide a (beat + 1) else d
    else d
  | none => d

end Sys2Proof.Machine
end

