-- ==== Sys2Proof/Machine/Entropy.lean ====
section
/-!
DEFINITION. The entropy source (R382 to R395): noise cells and their start-up tests, who receives samples, DRBG
instances, known-answer tests, entropy rings.
-/

namespace Sys2Proof.Machine

def entPage (p : Port) : Page := .entPort p.idx

/-! ### Instances (R387, R388) -/

/-- State of an instance: internal k (0 to 7), or 64 + 32p + i. -/
def Dev.instState (d : Dev) (x : Nat) : Nat :=
  if x < 64 then d.rd .entCell 0x110 (2 * x) else d.rd (.entPort ((x - 64) / 32)) (0x210 + 32 * (x % 32)) 0

def Dev.setInstState (d : Dev) (x n : Nat) : Dev :=
  if x < 64 then d.wr .entCell 0x110 (2 * x) n else d.wr (.entPort ((x - 64) / 32)) (0x210 + 32 * (x % 32)) 0 n

/-- Where an instance's state is kept. -/
def drbgKey (x : Nat) : Nat := if x < 64 then 64 + x else x - 64

/-- Personalisation string: serial number, port (2 internal), instance number, six zero bytes. -/
def Dev.personal (d : Dev) (x : Nat) : List Nat :=
  (List.range 8).map (fun i => bits d.record.serial (8 * i) 8) ++
    [if x < 64 then 2 else (x - 64) / 32, x % 32] ++ List.replicate 6 0

/-- Samples as bytes, the earliest in bit 0 of byte 0. -/
def sampleBytes (bs : List Bool) : List Nat :=
  (List.range ((bs.length + 7) / 8)).map fun i =>
    (((bs.drop (8 * i)).take 8).zipIdx.map fun x => x.1.toNat * 2 ^ x.2).sum

/-- The generate calls that an instance has left to show (ENT_RING_STATE.reseed_ctr). -/
def Dev.showReseed (d : Dev) (x n : Nat) : Dev :=
  if x < 64 then d else d.wr (.entPort ((x - 64) / 32)) (0x210 + 32 * (x % 32)) 7 n

/-! ### Known-answer tests (R392) -/

/-- A lasting failure: every instance enters ERROR. -/
def Dev.katLasting (d : Dev) (kat : Nat) : Dev :=
  let d := ((d.recordErr .entCell .lasting 0x23 (kat % 4)).retryLasting .entCell).faultLog .entCell 0
  let d := d.wr .entCell 0x104 11 1
  let d := forN 8 (fun k d => d.setInstState k 3) d
  forN 64 (fun i d =>
    let pg := Page.entPort (i / 32)
    if d.rd pg (0x208 + 32 * (i % 32)) 4 = 1 && d.rdBool pg (0x208 + 32 * (i % 32)) 6 then d.setInstState (64 + i) 3 else d) d

/-- KAT: the tests end; `fail` is the test the first attempt fails, `again` whether its retry fails too. An armed
injection makes the attempt, or both, fail. -/
def doKat (fail : Option Nat) (again : Bool) (d : Dev) : Dev :=
  let (inj, d) := d.fire .entCell
  let (n, d) := if inj != 0 && fail.isNone then d.fresh else (fail.getD 0, d)
  let d := d.wr .entCell 0x104 10 0
  if fail.isNone && inj = 0 then d
  else if again || inj = 2 then d.katLasting (n % 4)
  else d.retryTransient .entCell

/-- The tests that precede an instantiation: they pass but for an injected failure. -/
def Dev.katRun (d : Dev) : Dev := doKat none false d

/-! ### Who receives samples (R383, R389) -/

def Dev.ringCfg (d : Dev) (x lo : Nat) : Nat := d.rd (.entPort (x / 32)) (0x208 + 32 * (x % 32)) lo
def Dev.ringOn (d : Dev) (x : Nat) : Bool := d.ringCfg x 6 == 1

/-- Samples a consumer needs in all; 0 when it does not wait. -/
def Dev.sampleNeed (d : Dev) (x : Nat) : Nat :=
  let seed (st : Nat) : Nat := if st = 0 then 768 else if st = 2 then 512 else 0
  if x < 8 then seed (d.instState x)
  else if 64 ≤ x && x < 128 then
    if d.ringOn (x - 64) && d.ringCfg (x - 64) 4 = 1 then seed (d.instState x) else 0
  else if 128 ≤ x && x < 192 then
    match findKey (x - 128) d.ent.reqs with
    | some r => if d.ringOn (x - 128) && d.ringCfg (x - 128) 4 = 0 then 8 * bits r.entry 64 24 else 0
    | none => 0
  else if 192 ≤ x && x < 194 then (if d.rdBool (.entPort (x - 192)) 0x104 31 then 0 else 16)
  else 0

/-- The cells a consumer takes samples from: 8 for any. -/
def Dev.sampleCell (d : Dev) (x : Nat) : Nat :=
  if 128 ≤ x && x < 192 then
    (match findKey (x - 128) d.ent.reqs with
      | some r => bits r.entry 88 4
      | none => 8)
  else if 192 ≤ x then d.rd (.entPort (x - 192)) 0x108 0
  else 8

/-- Length of a block for a consumer: 64 samples, 16 for TRNG_RAW. -/
def blockLen (x : Nat) : Nat := if 192 ≤ x then 16 else 64

/-- Does a consumer wait for a further block from a cell? Blocks that cells are filling for it count. -/
def Dev.sampleWaits (d : Dev) (c x : Nat) : Bool :=
  let open_ := (d.ent.block.filter fun b => b.2.1 == x).length
  let cell := d.sampleCell x
  (cell == 8 || cell == c) &&
    decide ((tget [] d.ent.pool x).length + open_ * blockLen x < d.sampleNeed x)

/-- The next consumer of a cell's block: internal instances, then instantiations and reseeds, then raw requests,
the ports in turn while both wait. -/
def Dev.nextConsumer (d : Dev) (c : Nat) : Option Nat × Dev :=
  let find (xs : List Nat) : Option Nat := xs.find? (d.sampleWaits c)
  let rings (base p : Nat) : List Nat := (List.range 32).map fun i => base + 32 * p + i
  match find (List.range 8) with
  | some x => (some x, d)
  | none =>
    match find (rings 64 0), find (rings 64 1) with
    | some a, some b =>
      (some (if d.ent.turnB2 then b else a), { d with ent := { d.ent with turnB2 := !d.ent.turnB2 } })
    | some a, none => (some a, d)
    | none, some b => (some b, d)
    | none, none =>
      match find (rings 128 0 ++ [192]), find (rings 128 1 ++ [193]) with
      | some a, some b =>
        (some (if d.ent.turnB3 then b else a), { d with ent := { d.ent with turnB3 := !d.ent.turnB3 } })
      | some a, none => (some a, d)
      | none, some b => (some b, d)
      | none, none => (none, d)

/-- An instance has its samples: instantiation, after the known-answer tests, or a reseed. -/
def Dev.seedInstance (d : Dev) (x : Nat) (samples : List Bool) : Dev :=
  let st := d.instState x
  let d := if st = 0 then d.katRun else d
  if d.rdBool .entCell 0x104 11 then d
  else
    let k := drbgKey x
    let seed := sampleBytes samples
    let g := if st = 0 then drbgInstantiate seed (d.personal x) else drbgReseed (tget {} d.ent.drbg k) seed
    let d := { d with ent := { d.ent with drbg := tput d.ent.drbg k g } }
    ((d.setInstState x 1).showReseed x 0).bump .entCell 0x048 samples.length

/-- A block is complete: the consumer has its samples; what it waited for happens when it has all it needs. -/
def Dev.blockDone (d : Dev) (c x : Nat) (samples : List Bool) : Dev :=
  let got := tget [] d.ent.pool x ++ samples
  let d := { d with ent := { d.ent with pool := tput d.ent.pool x got, block := tdel d.ent.block c } }
  if x < 128 then
    if d.sampleNeed x ≤ got.length then
      ({ d with ent := { d.ent with pool := tdel d.ent.pool x } }).seedInstance x got
    else d
  else
    let d := d.bump .entCell 0x040 samples.length
    if x < 192 then d
    else
      let pg := Page.entPort (x - 192)
      let w := ((got.take 16).zipIdx.map fun b => b.1.toNat * 2 ^ b.2).sum
      let d := { d with ent := { d.ent with pool := tdel d.ent.pool x } }
      ((d.wr pg 0x104 0 w).wr pg 0x104 16 c).wr pg 0x104 31 1

/-- RAW_SAMPLE: cell c produces a sample. A cell under test feeds its test; a cell that has passed hands its samples
to a consumer in blocks; with no consumer waiting a sample is discarded. In the factory state a selected cell takes
its samples from TRNG_PATTERN (R391). -/
def doRawSample (c : Nat) (sample : Bool) (d : Dev) : Dev :=
  if 8 ≤ c then d
  else
    let pattern := d.rdBool .entCell 0x104 9 && bit (d.rd .entCell 0x108 0) c
    let i := tget 0 d.ent.pat c
    let s := if pattern then bit (d.rd .entCell 0x10C 0) i else sample
    let d := if pattern then { d with ent := { d.ent with pat := tput d.ent.pat c ((i + 1) % 32) } } else d
    if !bit (d.rd .entCell 0x104 0) c then
      let t := tget [] d.ent.tests c
      if 1000 ≤ t.length then d else { d with ent := { d.ent with tests := tput d.ent.tests c (t ++ [s]) } }
    else
      let (cur, d) := match findKey c d.ent.block with
        | some b => if d.sampleNeed b.1 = 0 then ((none : Option (Nat × List Bool)), d) else (some b, d)
        | none => (none, d)
      let (blk, d) := match cur with
        | some b => (some b, d)
        | none =>
          let r := { d with ent := { d.ent with block := tdel d.ent.block c } }.nextConsumer c
          (r.1.map fun x => (x, ([] : List Bool)), r.2)
      match blk with
      | none => d
      | some (x, ss) =>
        let ss := ss ++ [s]
        if blockLen x ≤ ss.length then d.blockDone c x ss
        else { d with ent := { d.ent with block := tput d.ent.block c (x, ss) } }

/-! ### Start-up tests (R384, R385) -/

/-- Longest run of identical samples, given the current run. -/
def longestRun : List Bool → Option Bool → Nat → Nat → Nat
  | [], _, _, best => best
  | b :: t, last, run, best =>
    let run := if last = some b then run + 1 else 1
    longestRun t (some b) run (max best run)

/-- Does a cell fail on its 1,000 samples? -/
def startupFails (ss : List Bool) : Bool :=
  41 ≤ longestRun ss none 0 0 || 778 ≤ ss.count (ss.headD false)

/-- STARTUP_TEST_DONE: cell c has given 1,000 samples. -/
def doStartupTestDone (c : Nat) (d : Dev) : Dev :=
  let t := tget [] d.ent.tests c
  if 8 ≤ c || bit (d.rd .entCell 0x104 0) c || t.length < 1000 then d
  else
    let d := { d with ent := { d.ent with tests := tdel d.ent.tests c } }
    if startupFails t then d.bumpSat .entCell (0x180 + 4 * c) 0 1
    else (d.wr .entCell 0x104 0 (putBits (d.rd .entCell 0x104 0) c 1 1)).wr .entCell 0x104 8 1

/-! ### Entropy rings (R390, R394) -/

/-- Write the entry of ring x (32p + i) back with a status, advance head, count, and raise the vector. -/
def Dev.entWriteBack (d : Dev) (x : Nat) (entry status : Nat) : Dev :=
  let pg := Page.entPort (x / 32)
  let p := Port.ofIdx (x / 32)
  let o := 32 * (x % 32)
  let head := d.rd pg (0x20C + o) 0
  let base := 64 * d.rd pg (0x200 + o) 6 + 2 ^ 32 * d.rd pg (0x204 + o) 0
  let d := d.emit (.hostWrite p (base + 32 * head) (leBytes 32 (putBits entry 192 8 status)))
  let d := d.wr pg (0x20C + o) 0 ((head + 1) % 2 ^ d.rd pg (0x208 + o) 0)
  let d := (d.wr pg (0x210 + o) 2 0).bump pg 0x040 1
  let d := { d with ent := { d.ent with reqs := tdel d.ent.reqs x, pool := tdel d.ent.pool (128 + x) } }
  if d.ringCfg x 18 = 1 then d.vector p (d.ringCfg x 7) else d

/-- A reserved bit or code, or a length or address the table does not allow. -/
def entBad (raw : Bool) (e : Nat) : Bool :=
  let len := bits e 64 24
  bits e 0 6 != 0 || len = 0 || len % 64 != 0 || (if raw then 8 < bits e 88 4 else bits e 88 4 != 0) ||
    bits e 92 36 != 0 || bits e 192 8 != 0 || bits e 200 56 != 0

/-- Write data of a request at its next bytes. -/
def Dev.entData (d : Dev) (x : Nat) (r : EntReq) (bs : List Nat) : Dev :=
  let d := d.emit (.hostWrite (Port.ofIdx (x / 32)) (bits r.entry 0 64 + r.done) (bs.map (BitVec.ofNat 8)))
  let d := d.bump (.entPort (x / 32)) 0x048 bs.length
  { d with ent := { d.ent with reqs := tput d.ent.reqs x { r with done := r.done + bs.length } } }

/-- Generate calls of at most 65,536 bytes while the instance is READY; at its interval it must reseed. -/
def Dev.entGenerate : Nat → Nat → Dev → Dev
  | 0, _, d => d
  | fuel + 1, x, d =>
    match findKey x d.ent.reqs with
    | none => d
    | some r =>
      let len := bits r.entry 64 24
      if len ≤ r.done || d.instState (64 + x) != 1 then d
      else
        let n := min 65536 (len - r.done)
        let g := drbgGenerate (tget {} d.ent.drbg x) n
        let d := { d with ent := { d.ent with drbg := tput d.ent.drbg x g.2 } }
        let d := ((d.bump .entCell 0x050 n).showReseed (64 + x) (g.2.ctr - 1)).entData x r g.1
        let d := if 2 ^ d.ringCfg x 19 < g.2.ctr then d.setInstState (64 + x) 2 else d
        Dev.entGenerate fuel x d

/-- ENT_REQUEST_SERVE: the source serves the entry at ring i's head, whose 32 bytes read as `entry`; `hostErr` when
a data write meets a PCIe error. A request that waits for entropy is served on by later commands. -/
def doEntRequestServe (p : Port) (i entry : Nat) (hostErr : Bool) (d : Dev) : Dev :=
  let x := 32 * p.idx + i
  let pg := entPage p
  let o := 32 * i
  if 32 ≤ i || !d.ringOn x || d.rd pg (0x20C + o) 0 = d.rd pg (0x20C + o) 16 then d
  else
    let raw := d.ringCfg x 4 = 0
    let e := ((findKey x d.ent.reqs).map (·.entry)).getD (entry % 2 ^ 256)
    if entBad raw e then (d.logErr .entCell 0x22 (i + p.idx * 2 ^ 8)).entWriteBack x e 5
    else if !raw && d.rdBool .entCell 0x104 11 then d.entWriteBack x e 2
    else
      let d := if (findKey x d.ent.reqs).isSome then d else { d with ent := { d.ent with reqs := tput d.ent.reqs x { entry := e } } }
      let len := bits e 64 24
      let got := tget [] d.ent.pool (128 + x)
      let d :=
        if !raw then d.entGenerate 257 x
        else if 8 * len ≤ got.length then d.entData x { entry := e } (sampleBytes got)
        else d
      let done := ((findKey x d.ent.reqs).map (·.done)).getD 0
      if hostErr && 0 < done then d.entWriteBack x e 3
      else if len ≤ done then d.entWriteBack x e 1
      else d.wr pg (0x210 + o) 2 1

/-- A ring's instance is uninstantiated and its state zeroised; samples and requests of the ring go. -/
def Dev.ringOff (d : Dev) (x : Nat) : Dev :=
  ({ d with ent := { d.ent with
      drbg := tdel d.ent.drbg x, reqs := tdel d.ent.reqs x
      pool := tdel (tdel d.ent.pool (64 + x)) (128 + x)
      block := d.ent.block.filter fun b => b.2.1 != 64 + x && b.2.1 != 128 + x } }).wr
    (.entPort (x / 32)) (0x210 + 32 * (x % 32)) 0 0 |>.showReseed (64 + x) 0

/-- A write of ENT_RING_CFG of ring i: while the ring is enabled only `enable` and `irq` act. A host of level 1 has
no entropy rings: its `enable` is ignored (R412). -/
def Dev.entCfgWrite (d : Dev) (p : Port) (i w : Nat) : Dev :=
  let pg := entPage p
  let o := 0x208 + 32 * i
  let x := 32 * p.idx + i
  if wordReserved pg o w then d
  else
    let on := d.ringOn x
    let want := bit w 6 && (on || d.rd (mboxPage p) 0x158 0 != 1)
    let d := d.putFields pg o w fun f => f.lo == 18 || (!on && f.acc == .rw && f.lo != 6)
    if want && !on then
      let d := (((d.ringOff x).wr pg o 6 1).wr pg (o + 4) 0 0).wr pg (o + 4) 16 0
      if d.ringCfg x 4 = 1 && d.rdBool .entCell 0x104 11 then d.setInstState (64 + x) 3 else d
    else if !want && on then
      let d := match findKey x d.ent.reqs with
        | some r => d.entWriteBack x r.entry 4
        | none => d
      (d.ringOff x).wr pg o 6 0 |>.wr pg (0x210 + 32 * i) 2 0
    else d

/-- A write of ENT_RING_PTR of ring i: the tail. -/
def Dev.entTailWrite (d : Dev) (p : Port) (i w : Nat) : Dev :=
  let o := 32 * i
  let tail := bits w 16 16
  if 2 ^ d.rd (entPage p) (0x208 + o) 0 ≤ tail then d.logErr .entCell 0x21 (i + p.idx * 2 ^ 8)
  else d.wr (entPage p) (0x20C + o) 16 tail

/-- A write of TRNG_PATTERN_SEL or TRNG_PATTERN: factory state only (R391). -/
def Dev.patternWrite (d : Dev) (off w : Nat) : Dev :=
  if d.rdBool .entCell 0x104 9 then
    let d := d.putFields .entCell off w fun f => f.acc == .rw
    { d with ent := { d.ent with pat := [] } }
  else d.logErr .entCell 0x20 off

/-- A port-scope reset (R331, R388): the port's rings and instances, and its two internal instances. -/
def Dev.resetEntropy (d : Dev) (p : Port) : Dev :=
  let d := forN 32 (fun i d => d.ringOff (32 * p.idx + i)) d
  let d := d.resetPage (entPage p) 0x1000 fun _ => false
  let again (d : Dev) (k : Nat) : Dev :=
    if d.instState k = 3 then d
    else
      ({ d with ent := { d.ent with drbg := tdel d.ent.drbg (64 + k), pool := tdel d.ent.pool k
                                    block := d.ent.block.filter fun b => b.2.1 != k } }).setInstState k 0
  let d := again (again d p.idx) (2 + p.idx)
  { d with ent := { d.ent with pool := tdel d.ent.pool (192 + p.idx)
                               block := d.ent.block.filter fun b => b.2.1 != 192 + p.idx } }

end Sys2Proof.Machine
end

