-- ==== Sys2Proof/Machine/Sluice.lean ====
section
/-!
DEFINITION. The sluice (R366 to R379): the budget and the grants, ceilings and throttle levels, droop and the
thermal factor.
-/

namespace Sys2Proof.Machine

/-! ### Budget and grants (R370 to R372, R377, R428) -/

/-- The cap that the power of the cables sets on B, in tokens (R428). -/
def cableCap (pc : Nat) : Nat := 92 * (4800 - pc) / 100

/-- B: the lowest of the requests present and the caps; with no request at most 2,000 tokens (R370). -/
def Dev.budget (d : Dev) : Nat :=
  let asked := ([0x108, 0x10C].map fun o => d.rd .sluice o 0).filter (· != 0)
  let cap := d.rd .sluice 0x110 0
  let caps := (if cap = 0 then [] else [cap]) ++ [cableCap (d.rd .modPage 0x10C 0)]
  let base := if asked.isEmpty then [2000] else asked
  (base ++ caps).foldl min 65535

/-- Form B and the grants; a partition whose running take no longer fits is scaled (R372, R377). -/
def Dev.formBudget (d : Dev) : Dev :=
  let b := d.budget
  let rest := b - 720
  let ga := rest * d.rd .sluice 0x118 0 / 256
  let old (p : Port) := d.grant p
  let oldA := old .a
  let oldB := old .b
  let d := d.wr .sluice 0x114 0 b
  let d := if d.rdBool .sluice 0x104 0 then d else d.wr .sluice 0x114 16 b
  let d := (d.wr .sluice 0x11C 0 ga).wr .sluice 0x11C 16 (rest - ga)
  allPorts.foldl (fun d p =>
    let was := match p with | .a => oldA | .b => oldB
    let t := d.take p
    if d.running p && d.grant p < was && d.grant p < t.cs.phaseSum t.phase then d.applyPhase p else d) d

/-- A write of a request, the cap, the share or the supply setpoint (R366, R370, R372). -/
def Dev.sluiceWrite (d : Dev) (w : Writer) (off v : Nat) : Dev :=
  let mine := match w with
    | .host .a => off == 0x108 || off == 0x118 || off == 0x128
    | .host .b => off == 0x10C
    | .sideband => off == 0x110 || off == 0x118 || off == 0x128
  let b := match w with | .host .b => 1 | _ => 0
  if !mine then (match w with | .sideband => d | _ => d.logErr .sluice 0x21 (off + b * 2 ^ 16))
  else if wordReserved .sluice off v then
    if off = 0x118 then d else d.logErr .sluice 0x20 off
  else (d.putFields .sluice off v fun f => f.acc == .rw).formBudget

/-! ### Ceilings and throttle levels (R373 to R376) -/

/-- The ceiling of a block: that of the running take it is a member of; none when it is a member of no take. -/
def Dev.ceiling (d : Dev) (pg : Page) : Option Nat :=
  firstSome (allPorts.map fun p =>
    if d.running p then
      match (d.take p).cs.blocks.findIdx? fun b => d.blockPage p b == some pg with
      | some i => some (d.ceilingIn p i)
      | none => none
    else none)

/-- Blocks of the core that the sluice throttles. -/
def Page.throttled : Page → Bool
  | .router _ _ | .tile _ | .me _ | .ve _ | .vc _ | .pump _ | .link _ | .gw _ => true
  | _ => false

def Dev.ownLevel (d : Dev) (pg : Page) : Nat := tget 0 d.sluice.level pg.base
def Dev.setLevel (d : Dev) (pg : Page) (n : Nat) : Dev :=
  { d with sluice := { d.sluice with level := if n = 0 then tdel d.sluice.level pg.base else tput d.sluice.level pg.base n } }

/-- The level in force at a block: its own and the core-wide rise, at most 31. -/
def Dev.level (d : Dev) (pg : Page) : Nat := min 31 (d.ownLevel pg + d.sluice.core)

/-- The power estimate of a block. -/
def Dev.power (d : Dev) (pg : Page) : Nat := tget 0 d.sluice.power pg.base
def Dev.setPower (d : Dev) (pg : Page) (n : Nat) : Dev :=
  { d with sluice := { d.sluice with power := if n = 0 then tdel d.sluice.power pg.base else tput d.sluice.power pg.base n } }

/-- A throttle event of a block (R374). -/
def Dev.throttleEvent (d : Dev) (pg : Page) : Dev :=
  let d := d.bump .sluice 0x040 1
  match d.takeOf pg with
  | some p => d.modTake p fun t => { t with throttle0 := t.throttle0 + 1 }
  | none => d

/-- The lowest level that brings an estimate made at level `l` to the ceiling or below; 31 when none does. -/
def levelFor (est l ceil : Nat) : Nat :=
  ((List.range 32).find? fun n => l ≤ n && est * (16 + l) ≤ ceil * (16 + n)).getD 31

/-- THROTTLE_DECISION: a monitor window ends with an estimate for a block and one for the core (SLU_POWER). -/
def doThrottleDecision (pg : Page) (est total : Nat) (d : Dev) : Dev :=
  let d := d.wr .sluice 0x124 0 (total % 2 ^ 16)
  if !pg.throttled then d
  else
    let d := d.setPower pg (est % 2 ^ 16)
    match d.ceiling pg with
    | none => d
    | some c =>
      if est % 2 ^ 16 ≤ c then d
      else
        let l := d.level pg
        let n := levelFor (est % 2 ^ 16) l c
        let d := if l = 0 && 0 < n then d.throttleEvent pg else d
        d.setLevel pg (n - d.sluice.core)

/-- THROTTLE_STEP_DOWN: the estimate has stayed below 90 % of the ceiling for 10 µs. -/
def doThrottleStepDown (pg : Page) (d : Dev) : Dev :=
  let below := match d.ceiling pg with
    | some c => decide (d.power pg * 10 < c * 9)
    | none => true
  if below then d.setLevel pg (d.ownLevel pg - 1) else d

/-- Pages of the blocks of the core. -/
def corePages : List Page :=
  tilePages ++ mePages ++ vePages ++ vcPages ++ routerPages ++ linkPages ++ gwPages ++ (List.range 32).map .pump

/-- One more core-wide level. -/
def Dev.raiseCore (d : Dev) : Dev :=
  let d := (corePages.filter fun pg => d.level pg = 0).foldl Dev.throttleEvent d
  { d with sluice := { d.sluice with core := min 31 (d.sluice.core + 1) } }

/-- CORE_WIDE_THROTTLE: a block at level 31 has exceeded its ceiling for 100 µs; every block rises one level at a
time, a command each, while the total is over B. -/
def doCoreWideThrottle (pg : Page) (total : Nat) (d : Dev) : Dev :=
  let beyond := match d.ceiling pg with
    | some c => decide (c < d.power pg)
    | none => false
  let on := d.rdBool .sluice 0x104 3
  if !on && !(d.level pg = 31 && beyond) then d
  else
    let d := if on then d
      else ((d.logErr .sluice 0x22 (pg.blkType % 256 + pg.blkInstance * 2 ^ 8)).bump .sluice 0x050 1).wr .sluice 0x104 3 1
    let d := d.wr .sluice 0x124 0 (total % 2 ^ 16)
    if d.rd .sluice 0x114 16 < total then d.raiseCore else d

/-- CORE_WIDE_RELEASE: the total has stayed below 90 % of B for 1 ms; the blocks return to their own levels. -/
def doCoreWideRelease (total : Nat) (d : Dev) : Dev :=
  if d.rdBool .sluice 0x104 3 && total * 10 < d.rd .sluice 0x114 16 * 9 then
    { (d.wr .sluice 0x104 3 0).wr .sluice 0x124 0 (total % 2 ^ 16) with sluice := { d.sluice with core := 0 } }
  else d

/-! ### Droop (R378) and temperature (R379) -/

/-- DROOP: the lowest quadrant monitor reads `mv`, more than 50 mV below the setpoint. -/
def doDroop (mv : Nat) (d : Dev) : Dev :=
  if mv + 50 < d.rd .sluice 0x128 0 then
    let d := d.wr .sluice 0x128 16 (mv % 2 ^ 10)
    if d.rdBool .sluice 0x104 2 then d else (d.wr .sluice 0x104 2 1).bump .sluice 0x048 1
  else d

/-- DROOP_RELEASE: every monitor has read within 50 mV for 1 µs, the lowest of them `mv`. -/
def doDroopRelease (mv : Nat) (d : Dev) : Dev :=
  if d.rdBool .sluice 0x104 2 && d.rd .sluice 0x128 0 ≤ mv + 50 then
    (d.wr .sluice 0x104 2 0).wr .sluice 0x128 16 (mv % 2 ^ 10)
  else d

/-- The hottest reading and the lowest column that shows it. -/
def hottest (ts : List Nat) : Nat × Nat :=
  let m := ts.foldl max 0
  (m, (ts.findIdx? (· == m)).getD 0)

/-- THERMAL_FACTOR: the die sensors read `temps`, column 0 first. SLU_TJ.f is rounded down. -/
def doThermalFactor (temps : List Nat) (d : Dev) : Dev :=
  let ts := (temps.take 16).map (· % 256)
  let h := hottest ts
  let d := { d with pwr := { d.pwr with temps := ts.zipIdx.foldl (fun t (x : Nat × Nat) => tput t x.2 x.1) d.pwr.temps } }
  let d := ((d.wr .sluice 0x120 0 h.1).wr .sluice 0x120 8 h.2).wr .sluice 0x120 16 (256 * thermal h.1 / 20)
  let d := d.wrBool .sluice 0x104 1 (100 < h.1)
  allPorts.foldl (fun d p => if d.running p then d.showCeilings p else d) d

/-- SLU_BLK_DATA for the block that SLU_BLK_SEL names. -/
def Dev.blkData (d : Dev) (pg : Option Page) : Nat :=
  match pg with
  | some pg => if pg.throttled then d.power pg + d.level pg * 2 ^ 16 else 0
  | none => 0

end Sys2Proof.Machine
end

