-- ==== Sys2Proof/Machine/Links.lean ====
section
/-!
DEFINITION. Solcorin links and their gateways (R291 to R319) and the cages that hold them (R425 to R431).
-/

namespace Sys2Proof.Machine

/-! ### Cage states (R425) -/

def Dev.cageState (d : Dev) (k : Nat) : Nat := d.rd (.cage k) 0x104 0

def cageLinks (k : Nat) : List Nat := (List.range 4).map (4 * k + ·)

/-- A cage changes state; each port's vector for it is raised (MOD_IRQ_A, MOD_IRQ_B). -/
def Dev.setCage (d : Dev) (k st : Nat) : Dev :=
  if d.cageState k = st then d
  else
    let d := d.wr (.cage k) 0x104 0 st
    allPorts.foldl (fun d p =>
      let o := 0x110 + 4 * p.idx
      if d.rdBool .modPage o 16 then d.vector p (d.rd .modPage o 0) else d) d

/-- LED of a cage (R425): the colour and how it blinks. -/
inductive Led where
  | off | green4Hz | greenHalfHz | green | greenAmberFlash | amber2Hz | amber | amberHalfHz
  deriving DecidableEq, Repr

def Dev.led (d : Dev) (k : Nat) : Led :=
  match d.cageState k with
  | 1 => .green4Hz
  | 2 => .greenHalfHz
  | 3 => if (cageLinks k).any fun i => d.linkState i == 3 then .greenAmberFlash else .green
  | 4 => .amber2Hz
  | 5 => .amber
  | 6 => .amberHalfHz
  | _ => .off

/-- The cage is drained once none of its links drains any more (R427). -/
def Dev.cageDrained (d : Dev) (k : Nat) : Dev :=
  if d.cageState k = 4 && (cageLinks k).all fun i => d.linkState i != 4 then
    (d.wr (.cage k) 0x104 4 0).setCage k 5
  else d

/-- A cage whose links have trained, or failed to, goes into service or waits (R429). -/
def Dev.cageSettle (d : Dev) (k : Nat) : Dev :=
  let st := (cageLinks k).map d.linkState
  if d.cageState k = 1 && !st.contains 1 && st.any fun x => x == 2 || x == 3 then
    d.setCage k (if d.rdBool (.cage k) 0x108 0 then 3 else 2)
  else d

/-! ### Transmitting (R304) -/

def slotTxVc (e : Nat) : Nat := bits e 0 2
def slotTxFlow (e : Nat) : Nat := bits e 2 12
def slotRxVc (e : Nat) : Nat := bits e 14 2
def slotRxFlow (e : Nat) : Nat := bits e 16 12

/-- Channel of a slot entry's code: 1 bulk, 2 reduction. -/
def slotVc (c : Nat) : Nat := if c = 1 then vcBulk else vcRed

def Dev.slotOf (d : Dev) (i k : Nat) : Nat := d.word (.link i) (0x800 + 4 * k)

/-- Entries of the slot table in use: none while no running take lists the link. -/
def Dev.slotCount (d : Dev) (i : Nat) : Nat := if (d.takeOf (.link i)).isSome then d.rd (.link i) 0x10C 0 else 0

/-- A link that carries flits: UP, DEGRADED or DRAINING, and in service. -/
def Dev.linkCarries (d : Dev) (i : Nat) : Bool :=
  i < 64 && (d.linkUsable i || d.linkState i == 4)

/-- Put a flit on the wire and into the replay buffer. -/
def Dev.txFlit (d : Dev) (i vc body : Nat) : Dev :=
  let pg := Page.link i
  let seq := d.rd pg 0x110 0
  let f := mkFlit seq vc body
  let d := d.modLink i fun s => { s with
    replay := s.replay ++ [f]
    bulk := if vc = vcBulk then s.bulk - 1 else s.bulk
    red := if vc = vcRed then s.red - 1 else s.red
    ctlCr := if vc = vcCtl then s.ctlCr - 1 else s.ctlCr }
  let d := ((d.wr pg 0x110 0 ((seq + 1) % 256)).wr pg 0x110 16 (d.link i).replay.length).bump pg 0x040 1
  (d.emit (.linkFlit i vc (bodyFlow body) f)).putFlit i f

/-- Replay what the partner has not acknowledged (R300). -/
def Dev.replay (d : Dev) (i : Nat) : Dev :=
  (d.link i).replay.foldl (fun d f =>
    (d.emit (.linkFlit i (flitVc f) (bodyFlow (flitBody f)) f)).putFlit i f) (d.bump (.link i) 0x068 1)

/-- Send a waiting control flit. -/
def Dev.sendCtl (d : Dev) (i : Nat) (x : CtlItem) : Dev :=
  let d := d.modLink i fun s => { s with ctl := s.ctl.erase x }
  match x with
  | .service b | .management b => d.txFlit i vcCtl b
  | .recovery l seq b => ((d.txFlit i vcCtl b).bump (.link i) 0x078 1).emit (.recovery l seq i b)

def CtlItem.mayWait : CtlItem → Bool
  | .service _ => false
  | .management _ | .recovery _ _ _ => true

/-- LINK_TRANSMIT: the next flit position of link i, an idle flit where nothing may go. A control flit at a flow's entry
may have delayed a member (`wait`). A device without an ID sends link-management messages only (R295). -/
def doLinkTransmit (i : Nat) (wait : Option Wait) (d : Dev) : Dev :=
  let l := d.link i
  if !d.linkCarries i then d
  else if 32 ≤ l.replay.length then d.putFlit i idleFlit
  else
    let named := d.rdBool .ident 0x10C 16
    match l.clap, named with
    | c :: cs, true => ((d.modLink i fun s => { s with clap := cs }).txFlit i vcClap c).bump (.link i) 0x070 1
    | _, _ =>
      let n := d.slotCount i
      let e := d.slotOf i l.txPos
      let ctl (late : Bool) (d : Dev) : Dev :=
        let x := if l.ctlCr = 0 then none
          else l.ctl.find? fun x => (!late || x.mayWait) && (named || (match x with | .management _ => true | _ => false))
        match x with
        | some x => d.sendCtl i x
        | none => d.putFlit i idleFlit
      let onward (s : LinkSt) : LinkSt := { s with txPos := (s.txPos + 1) % n }
      if n = 0 || slotTxVc e = 0 then ctl false (if n = 0 then d else d.modLink i onward)
      else
        let vc := slotVc (slotTxVc e)
        match tget [] l.flows (slotTxFlow e), named && decide (0 < (if vc = vcBulk then l.bulk else l.red)) with
        | b :: bs, true =>
          let d := d.modLink i fun s => { onward s with flows := tput s.flows (slotTxFlow e) bs }
          (d.txFlit i vc b).retryWait wait
        | _, _ => ctl true d

/-! ### Links that go down (R302) -/

/-- Send a body of a failed link as a recovery flit by the service route to the partner. -/
def Dev.sendRecovery (d : Dev) (i seq body : Nat) : Dev :=
  match d.routeTo (d.rd (.link i) 0x108 0) with
  | some (route, _) =>
    if d.linkUsable (bits route 0 6) then
      d.modLink (bits route 0 6) fun s => { s with ctl := s.ctl ++ [.recovery i seq body] }
    else d
  | none => d

def Dev.recovering (d : Dev) (i : Nat) : Bool := (d.gw (i / 16)).recover.contains i

/-- While a failed link is under recovery its later flits go as recovery flits in the order of its slot table. -/
def Dev.recoverMore : Nat → Nat → Dev → Dev
  | 0, _, d => d
  | fuel + 1, i, d =>
    let l := d.link i
    let n := d.slotCount i
    let e := d.slotOf i l.txPos
    let d' := d.modLink i fun s => { s with txPos := (s.txPos + 1) % n }
    if n = 0 || !d.recovering i || l.flows.all (·.2.isEmpty) then d
    else if slotTxVc e = 0 then d'.recoverMore fuel i
    else match tget [] l.flows (slotTxFlow e) with
      | b :: bs =>
        let seq := d.rd (.link i) 0x110 0
        let d := (d'.modLink i fun s => { s with flows := tput s.flows (slotTxFlow e) bs }).wr (.link i) 0x110 0 ((seq + 1) % 256)
        (d.sendRecovery i seq b).recoverMore fuel i
      | [] => d

/-- A link leaves service for good: its traffic is lost, and a take's flows are recovered (R302). State 0 DOWN, or
6 DISABLED. -/
def Dev.linkDown (d : Dev) (i st : Nat) : Dev :=
  let was := d.linkState i
  let pg := Page.link i
  let l := d.link i
  let d := if l.recal = 2 then (d.writeVaults i).foldl (fun d v => d.unlock (vaultLock v) 4) d else d
  let d := ((d.wr pg 0x104 0 st).wr pg 0x104 3 0).wr pg 0x104 8 0
  let d := (((d.wr pg 0x104 5 0).wr pg 0x104 6 0).wr pg 0x108 20 0).wr pg 0x110 16 0
  let d := d.modLink i fun s => { s with
    replay := [], ctl := [], clap := [], half := none, due := 0, nak := false, failed := none, recal := 0, retrain := false, corr := [] }
  let d := d.linkFails i
  let d :=
    if (d.takeOf pg).isSome && (was = 2 || was = 3 || was = 4) then
      let d := (d.modGw (i / 16) fun g => { g with recover := i :: g.recover.erase i }).wr (.gw (i / 16)) 0x104 2 1
      let d := (l.replay.filter fun f => flitVc f = vcBulk || flitVc f = vcRed).foldl
        (fun d f => d.sendRecovery i (flitSeq f) (flitBody f)) d
      d.recoverMore (513 * ((l.flows.map (·.2.length)).sum + 1)) i
    else d
  d.cageDrained (i / 4)

/-- A lasting fault: the lane with the most corrected symbols is retired, of a degraded link the link (R300). -/
def Dev.linkLasting (d : Dev) (i : Nat) : Dev :=
  let pg := Page.link i
  if d.rdBool pg 0x104 5 && d.rdBool pg 0x104 6 then
    let c0 := ((d.link i).corr.map (·.1)).sum
    let c1 := ((d.link i).corr.map (·.2)).sum
    let (n, d) := if c0 = c1 then d.fresh else (if c0 < c1 then 1 else 0, d)
    let lane := n % 2
    let d := d.wr pg 0x104 (5 + lane) 0
    let d := if d.linkState i = 4 then d else d.wr pg 0x104 0 3
    let d := (d.recordErr pg .lasting 0x20 (i + lane * 2 ^ 6)).retryLasting pg
    let d := (((d.faultLog pg 4).repCount pg 0x048).linkFails i).modLink i fun s => { s with failed := none, corr := [] }
    d.replay i
  else
    let d := (d.recordErr pg .lasting 0x21 i).retryLasting pg
    ((d.faultLog pg 5).repCount pg 0x048).linkDown i 0

/-! ### Receiving (R297, R300, R305) -/

/-- The next control word returns a credit of a channel (none for 1, clapper). -/
def Dev.returnCredit (d : Dev) (i vc : Nat) : Dev :=
  let cr (k at_ : Nat) : Nat := if vc = k then 2 ^ at_ else 0
  d.modLink i fun s => { s with due := s.due + cr vcBulk 16 + cr vcRed 24 + cr vcCtl 32 }

/-- A flit or codeword with sequence number `seq` failed: discarded, with a NAK; the same number twice is a lasting
fault. -/
def Dev.rxError (d : Dev) (i seq : Nat) : Dev :=
  let l := d.link i
  let twice := l.failed == some seq
  let d := d.modLink i fun s => { s with nak := true, failed := some seq }
  if twice then d.linkLasting i else d

/-- A flit arrives on link i: its body, when it comes in order with a good CRC and no reserved code. -/
def Dev.rxFlit (d : Dev) (i flit : Nat) : Option Nat × Dev :=
  let pg := Page.link i
  if !d.linkCarries i || flitIdle flit then (none, d)
  else
    let want := ((d.link i).rxSeq + 1) % 256
    let (inj, d) := d.fire pg
    let bad (d : Dev) : Dev := (d.bump pg 0x060 1).rxError i want
    if inj = 1 then (none, bad d)
    else if inj != 0 then (none, bad (bad d))
    else if !flitCrcOk flit || flitReserved flit then (none, bad d)
    else if flitSeq flit != want then (none, d)
    else
      let d := if (d.link i).failed.isSome then d.retryTransient pg else d
      let d := (d.modLink i fun s => { s with rxSeq := want, heard := true, nak := false, failed := none }).bump pg 0x048 1
      (some (flitBody flit), d.returnCredit i (flitVc flit))

/-- LINK_FLIT_ERROR: an uncorrectable codeword, or a flit whose CRC fails, where sequence number `seq` stood. -/
def doLinkFlitError (i seq : Nat) (uncorr : Bool) (wait : Option Wait) (d : Dev) : Dev :=
  if !d.linkCarries i then d
  else
    let d := d.bump (.link i) (if uncorr then 0x058 else 0x060) 1
    if seq % 256 != ((d.link i).rxSeq + 1) % 256 then d else (d.rxError i (seq % 256)).retryWait wait

/-- LINK_CONTROL_WORD: a codeword with `c0` and `c1` corrected symbols on the lanes brings a control word. One with
a reserved bit set is not acted on. -/
def doLinkControlWord (i word c0 c1 : Nat) (d : Dev) : Dev :=
  let pg := Page.link i
  if !d.linkCarries i then d
  else
    let d := (d.bump pg 0x050 (c0 + c1)).modLink i fun s => { s with corr := ((c0, c1) :: s.corr).take 1024 }
    if bits word 10 6 != 0 || bits word 40 24 != 0 then d
    else
      let ack := bits word 0 8
      let rest (fs : List Nat) : List Nat :=
        match fs.findIdx? fun f => flitSeq f == ack with
        | some k => if bit word 8 then fs.drop (k + 1) else fs
        | none => fs
      let d := d.modLink i fun s => { s with
        replay := rest s.replay
        bulk := min 64 (s.bulk + bits word 16 8)
        red := min 32 (s.red + bits word 24 8)
        ctlCr := min 32 (s.ctlCr + bits word 32 8) }
      let d := if bit word 8 then d.wr pg 0x110 8 ack else d
      let d := d.wr pg 0x110 16 (d.link i).replay.length
      if bit word 9 then d.replay i else d

/-! ### Flows at a gateway (R306, R307, R312) -/

/-- Links of gateway q whose slot table names a transmit flow. -/
def Dev.branches (d : Dev) (q flow : Nat) : List Nat :=
  ((List.range 16).map (16 * q + ·)).filter fun i =>
    (List.range (d.slotCount i)).any fun k =>
      let e := d.slotOf i k
      slotTxVc e != 0 && slotTxFlow e == flow

/-- A body of a flow is ready at gateway q: on its link, at its fork, or, where no link carries it, nowhere. -/
def Dev.flowReady (d : Dev) (q flow body : Nat) : Dev :=
  match d.branches q flow with
  | [] => d
  | [i] =>
    let d := d.modLink i fun s => { s with flows := tput s.flows flow (tget [] s.flows flow ++ [body]) }
    if d.recovering i then d.recoverMore 1026 i else d
  | _ => d.modGw q fun g => { g with forks := g.forks ++ [(flow, body)] }

/-- Build the body of a flow from segments. The header names the destination device, where the flow's table says
it; else that field is free. -/
def Dev.joinFlow (d : Dev) (q flow : Nat) (dst : Option Nat) (segs : List Nat) : Dev :=
  let (n, d) := match dst with
    | some x => (x, d)
    | none => d.fresh
  d.flowReady q flow (mkBody { flow := flow, segs := segs.length, dst := n, src := d.devId } segs)

/-- The remote range entry that holds a global index: logical device and flow. -/
def Dev.remoteRange (d : Dev) (q g : Nat) : Option (Nat × Nat) :=
  let gw := Page.gw q
  ((List.range 64).find? fun e =>
    let o := 0x800 + 16 * e
    d.rd gw o 0 ≤ g && g < d.rd gw o 0 + d.rd gw (o + 4) 0).map fun e =>
      (d.rd gw (0x808 + 16 * e) 0, d.rd gw (0x808 + 16 * e) 16)

/-- A gateway raises a fault of the running take that lists it. -/
def Dev.gwFault (d : Dev) (q code detail : Nat) : Dev :=
  match d.takeOf (.gw q) with
  | some p => d.raise p (.gw q) code detail
  | none => d.recordErr (.gw q) (if code < 0x10 then .schedule else .model) code detail

/-- A mesh flit reaches gateway q in router slot `idx`: a scheduled or reduction flit joins the ingress entry's
flow; the deltas of a delta flit join the flows of their ranges (R306, R307). -/
def Dev.gwIntake (d : Dev) (q idx vc payload : Nat) : Dev :=
  let gw := Page.gw q
  if vc = 0 || vc = 2 then
    let o := 0x2000 + 4 * (idx / 2)
    let lo := 16 * (idx % 2)
    if d.rdBool gw o (lo + 15) then
      d.joinFlow q (d.rd gw o lo) none ((List.range 8).map fun j => bits payload (128 * j) 128)
    else d
  else if vc = 1 then
    let items := ((List.range 8).map fun j => bits payload (128 * j) 128).filter fun x => bits x 73 2 != 3
    let (found, d) := items.foldl (fun (acc : List (Nat × Nat × Nat) × Dev) x =>
      match acc.2.remoteRange q (bits x 32 28) with
      | some (dev, flow) => (acc.1 ++ [(dev, flow, x)], acc.2)
      | none => (acc.1, acc.2.gwFault q 0x13 (bits x 32 28))) ([], d)
    let devs := match d.takeOf gw with | some p => (d.take p).cs.devices | none => []
    ((found.map fun x => (x.1, x.2.1)).eraseDups).foldl (fun d (k : Nat × Nat) =>
      d.joinFlow q k.2 (some (devs.getD k.1 0)) ((found.filter fun x => (x.1, x.2.1) == k).map (·.2.2))) d
  else d

/-- A delta that arrives at gateway q: the placement copy gives the tile (R307); an edge record keeps its own. -/
def Dev.gwDelta (d : Dev) (p : Port) (q x : Nat) : Dev :=
  let gw := Page.gw q
  let t := d.take p
  if bits x 73 2 = 3 then d
  else if t.cs.lattice then d.modTake p fun t => { t with flits := t.flits ++ [⟨0xF4 + q, bits x 80 8, x, false⟩] }
  else
    let g := bits x 32 28
    let hits := (List.range 128).filter fun l =>
      d.rd gw (0x400 + 8 * l) 0 ≤ g && g < d.rd gw (0x400 + 8 * l) 0 + d.rd gw (0x404 + 8 * l) 0
    match hits with
    | [l] =>
      if l < t.cs.tiles then
        let flit := putBits (putBits x 80 8 l) 88 8 (0xF4 + q)
        d.modTake p fun t => { t with flits := t.flits ++
          [⟨0xF4 + q, l, flit, ((d.siteOf p l).map fun s => d.initItem p (.tile s) flit).getD false⟩] }
      else d.gwFault q 0x13 g
    | _ => d.gwFault q 0x13 g

/-- Sideband of a flit a gateway gives its router (R248, R249). -/
def gwSide (q vc dst payload : Nat) : Nat := sideband vc dst (gwNode q) payload

/-- A mesh flow's segments wait until 8 of them form a flit for its node (R306). -/
def Dev.gwSegs (d : Dev) (q flow node : Nat) (segs : List Nat) : Dev :=
  let all := tget [] (d.gw q).segs flow ++ segs
  let full := all.length / 8
  let d := forN full (fun k d =>
    let payload := packWords 128 ((all.drop (8 * k)).take 8)
    d.emit (.inject (gwNode q) 0 payload (gwSide q 0 node payload))) d
  d.modGw q fun g => { g with segs := tput g.segs flow (all.drop (8 * full)) }

/-- Deliver or forward a scheduled flow's body at the gateway of the link it came by (R306). -/
def Dev.flowIn (d : Dev) (p : Port) (q body : Nat) : Dev :=
  let gw := Page.gw q
  let flow := bodyFlow body
  let o := 0x10000 + 16 * flow
  let segs := (List.range (bodySegs body)).map (bodySeg body)
  if !d.rdBool gw o 2 then (d.bump gw 0x048 1).flowReady q flow body
  else
    let d := d.bump gw 0x040 1
    match d.rd gw o 0 with
    | 1 => segs.foldl (fun d x => d.gwDelta p q x) d
    | 2 =>
      segs.foldl (fun d x =>
        let at_ := tget 0 (d.gw q).offs flow
        let n := 4 * d.rd gw (o + 12) 0
        let d := d.takeSt p (64 * d.rd gw (o + 8) 0 + 16 * at_) 16 x
        d.modGw q fun g => { g with offs := tput g.offs flow (if n = 0 then at_ + 1 else (at_ + 1) % n) }) d
    | 3 => d.gwSegs q flow (d.rd gw o 8) segs
    | _ => d

/-- The next entry of the slot table that names a receive flow, from a position on. -/
def Dev.nextRx (d : Dev) (i pos : Nat) : Option Nat :=
  let n := d.slotCount i
  ((List.range n).map fun k => (pos + k) % n).find? fun k => slotRxVc (d.slotOf i k) != 0

/-- A scheduled flit comes in sequence: the n-th must carry the flow of the n-th receive entry, and one that does not
is discarded and counts all the same (R305). -/
def Dev.rxSlot (d : Dev) (i vc body : Nat) : Dev :=
  let q := i / 16
  let overrun (d : Dev) : Dev := d.gwFault q 0x06 (i + bodyFlow body * 2 ^ 6)
  match d.takeOf (.link i), d.nextRx i (d.link i).rxPos with
  | some p, some k =>
    let e := d.slotOf i k
    let d := d.modLink i fun s => { s with rxPos := (k + 1) % d.slotCount i }
    if slotRxFlow e = bodyFlow body && slotVc (slotRxVc e) = vc then d.flowIn p q body else overrun d
  | _, _ => overrun d

/-- Is the partner an older node (R314)? -/
def Dev.legacy (d : Dev) (i : Nat) : Bool := d.rd (.link i) 0x108 18 != 0

/-- LINK_SCHEDULED_FLIT: a bulk or reduction flit. -/
def doLinkScheduledFlit (i flit : Nat) (d : Dev) : Dev :=
  if flitVc flit != vcBulk && flitVc flit != vcRed then d
  else match d.rxFlit i flit with
    | (some b, d) =>
      if d.legacy i then d.logErr (.gw (i / 16)) 0x24 i
      else if !d.rdBool .ident 0x10C 16 then d
      else d.rxSlot i (flitVc flit) b
    | (none, d) => d

/-- RECOVERY_FLIT: a flit of link `l` with sequence number `seq` and channel `vc` there comes over another link.
One already delivered is discarded; the sender keeps their order (R302). -/
def doRecoveryFlit (l seq vc body : Nat) (d : Dev) : Dev :=
  if 64 ≤ l || (vc != vcBulk && vc != vcRed) then d
  else
    let ahead := (seq % 256 + 255 - (d.link l).rxSeq) % 256
    if 128 ≤ ahead || !d.rdBool .ident 0x10C 16 then d
    else (d.modLink l fun s => { s with rxSeq := seq % 256 }).rxSlot l vc body

/-- FORK_RELEASE: every branch of a forked flow is at its entry and holds credit (R312). -/
def doForkRelease (q flow : Nat) (d : Dev) : Dev :=
  match (d.gw q).forks.find? (·.1 == flow) with
  | none => d
  | some x =>
    let bs := d.branches q flow
    let ready (i : Nat) : Bool :=
      let l := d.link i
      let e := d.slotOf i l.txPos
      d.linkCarries i && d.rdBool .ident 0x10C 16 && decide (l.replay.length < 32) && slotTxVc e != 0 && slotTxFlow e == flow &&
        decide (0 < (if slotTxVc e = 1 then l.bulk else l.red))
    if bs.isEmpty || !bs.all ready then d
    else
      let d := (d.modGw q fun g => { g with forks := g.forks.erase x }).bump (.gw q) 0x050 1
      bs.foldl (fun d i =>
        let vc := slotVc (slotTxVc (d.slotOf i (d.link i).txPos))
        (d.modLink i fun s => { s with txPos := (s.txPos + 1) % d.slotCount i }).txFlit i vc x.2) d

/-- MCAST_STALL: a fork has waited MCAST_STALL_LIMIT beats; its flit is discarded (R312). -/
def doMcastStall (q flow : Nat) (d : Dev) : Dev :=
  match (d.gw q).forks.find? (·.1 == flow) with
  | none => d
  | some x =>
    let pg := Page.gw q
    let d := (d.modGw q fun g => { g with forks := g.forks.erase x }).recordErr pg .lasting 0x22 flow
    let d := (d.retryLasting pg).faultLog pg 0
    match d.takeOf pg with
    | some p => d.modTake p fun t => { t.flag pg with stops := { t.stops with lost := true } }
    | none => d

/-! ### Service traffic (R299, R310, R311) -/

/-- Answer a request with an error response, which names the address asked for. -/
def Dev.svcError (d : Dev) (src addr tag : Nat) : Dev := (d.sendTo src vcCtl [svcHeader 3 1 addr tag]).2

/-- A flit for another device goes on along its route; where the next link is out it is answered with an error
response (R310). -/
def Dev.transit (d : Dev) (i vc body : Nat) : Dev :=
  let h := bodyHop body
  let l := bodyRoute body h
  let s := bodySeg body 0
  if h ≤ bodyLenM1 body && d.linkUsable l then
    let b := putBits body 36 2 (h + 1)
    (d.modLink l fun x =>
      if vc = vcClap then { x with clap := x.clap ++ [b] } else { x with ctl := x.ctl ++ [.service b] }).bump (.gw (i / 16)) 0x048 1
  else if vc = vcCtl && bits s 0 4 ≤ 1 then d.svcError (bodySrc body) (bits s 8 38) (bits s 46 16)
  else d

/-- A control flit with operation `op` arrives on link i: handled here by `f`, or sent on. -/
def Dev.svcFlit (d : Dev) (i flit op : Nat) (f : Nat → Dev → Dev) : Dev :=
  if flitVc flit != vcCtl || bits (bodySeg (flitBody flit) 0) 0 4 != op then d
  else match d.rxFlit i flit with
    | (none, d) => d
    | (some b, d) =>
      if op = 4 then f b d
      else if !d.rdBool .ident 0x10C 16 then d
      else if bodyDst b = d.devId then f b (d.bump (.gw (i / 16)) 0x040 1)
      else d.transit i vcCtl b

/-- May the device serve a remote access that came by link i (R311)? -/
def Dev.svcAllowed (d : Dev) (i addr n : Nat) : Bool :=
  addr + 64 * n ≤ 2 ^ 36 && addr % 64 = 0 &&
    (List.range n).all fun k =>
      let v := (addr + 64 * k) / 2 ^ 27
      d.vaultField v 0xC 0 == d.owner (.link i) && decide (d.owner (.link i) < 2) && !d.guarded v

/-- Refuse a remote access (SVC_REFUSED). -/
def Dev.svcRefuse (d : Dev) (i src addr tag : Nat) : Dev :=
  ((d.logErr (.gw (i / 16)) 0x23 i).bump (.gw (i / 16)) 0x058 1).svcError src addr tag

def remoteLines (addr n : Nat) : List (Nat × Nat) := (List.range n).map fun k => (addr + 64 * k, 64)

/-- SERVICE_WRITE: 1 to 3 lines of another device. -/
def doServiceWrite (i flit : Nat) (d : Dev) : Dev :=
  d.svcFlit i flit 0 fun b d =>
    let h := bodySeg b 0
    let n := bits h 4 2
    let a := bits h 8 38
    if !d.svcAllowed i a n then d.svcRefuse i (bodySrc b) a (bits h 46 16)
    else
      let bs := (List.range (4 * n)).flatMap fun j => leBytes 16 (bodySeg b (j + 1))
      match d.writeLines (.remote i) (remoteLines a n) bs with
      | (none, d) => d
      | (some _, d) => d.svcError (bodySrc b) a (bits h 46 16)

/-- READ_REQUEST: the lines go back in a read response. -/
def doReadRequest (i flit : Nat) (d : Dev) : Dev :=
  d.svcFlit i flit 1 fun b d =>
    let h := bodySeg b 0
    let n := bits h 4 2
    let a := bits h 8 38
    let tag := bits h 46 16
    if !d.svcAllowed i a n then d.svcRefuse i (bodySrc b) a tag
    else
      match d.readLines (.remote i) (remoteLines a n) [] with
      | ((bs, none), d) =>
        let words := (List.range (4 * n)).map fun j => leNat ((bs.drop (16 * j)).take 16)
        (d.sendTo (bodySrc b) vcCtl (svcHeader 2 n a tag :: words)).2
      | ((_, some _), d) => d.svcError (bodySrc b) a tag

/-- The read of an engine that an answer with a tag is for. -/
def Dev.readBack (d : Dev) (n tag : Nat) (f : Dev → Nat → Dev) : Dev :=
  match (d.prog n).bind fun g => fetchOfTag tag g.fetch with
  | some i => f d i
  | none => d

/-- READ_RESPONSE: the pump engine and read that the tag names have their lines. -/
def doReadResponse (i flit : Nat) (d : Dev) : Dev :=
  d.svcFlit i flit 2 fun b d =>
    let h := bodySeg b 0
    let tag := bits h 46 16
    d.readBack (tag / 2048) (tag % 2048) fun d i => d.fetchGot (tag / 2048) i ((List.range (4 * bits h 4 2)).flatMap fun j => leBytes 16 (bodySeg b (j + 1)))

/-- ERROR_RESPONSE: a pump whose read or write of another device was refused halts with REMOTE; for a write at the
instruction that wrote there last, while its program runs (log 214). -/
def doErrorResponse (i flit : Nat) (d : Dev) : Dev :=
  d.svcFlit i flit 3 fun b d =>
    let h := bodySeg b 0
    let tag := bits h 46 16
    let n := tag / 2048
    if tag % 2048 = 2047 then
      match d.prog n, (d.prog n).bind (·.rmt) with
      | some g, some (pc, loops) => if g.phase == .ring then d else d.halt n { g with pc := pc, loops := loops } 6 1 1 (bodySrc b * 2 ^ 38 + bits h 8 38)
      | _, _ => d
    else d.readBack n (tag % 2048) fun d i => d.fetchFail n i 6

/-- Tell the partner of a link that the link drains. -/
def Dev.drainNotice (d : Dev) (i : Nat) : Dev :=
  let b := mkBody { segs := 1, dst := d.rd (.link i) 0x108 0, src := d.devId } [svcHeader 4 1 0 0]
  d.modLink i fun s => { s with ctl := s.ctl ++ [.management b] }

/-- Does every running take that lists link i have an alternate set for its failed links and this one? A take for
which none has it keeps the link (R427). -/
def Dev.drainLink (d : Dev) (i : Nat) : Dev :=
  if d.linkState i != 2 && d.linkState i != 3 then d
  else
    let d := d.wr (.link i) 0x104 0 4
    allPorts.foldl (fun d p =>
      let t := d.take p
      if !(d.running p && t.links.contains i) then d
      else
        let mask := putBits t.failedLinks i 1 1
        if (coverSet t.cs.routes mask).isSome then d.modTake p fun t => { t with failedLinks := mask }
        else
          let k := i / 4
          if d.cageState k = 4 then
            if d.rdBool (.cage k) 0x104 4 then d else (d.wr (.cage k) 0x104 4 1).logErr (.cage k) 0x21 i
          else d) d

/-- LINK_MANAGEMENT: a message of the partner; a drain notice makes the link drain. -/
def doLinkManagement (i flit : Nat) (drain : Bool) (d : Dev) : Dev :=
  d.svcFlit i flit 4 fun _ d => if drain then d.drainLink i else d

/-! ### Clapper messages on links (R308, R309, R314) -/

/-- The running take a message is for: that with its take_id; else, a mismatch, the multi-device take of the
link's partition. -/
def Dev.msgTake (d : Dev) (i takeId : Nat) : Option Port :=
  match d.clapTake takeId with
  | some p => some p
  | none => allPorts.find? fun p => d.running p && (d.take p).cs.multi && d.owns p (.link i)

/-- A clapper flit of a kind arrives on link i. The gateway passes a message for this device over the mesh to the
clapper unit (R246, log 210). -/
def Dev.clapFlit (d : Dev) (i flit kind : Nat) (f : Port → Nat → Dev → Dev) : Dev :=
  if flitVc flit != vcClap || bits (bodySeg (flitBody flit) 0) 6 2 != kind then d
  else match d.rxFlit i flit with
    | (none, d) => d
    | (some b, d) =>
      let d := d.bump (.link i) 0x070 1
      if d.legacy i then d.logErr (.gw (i / 16)) 0x24 i
      else if !d.rdBool .ident 0x10C 16 then d
      else if bodyDst b != d.devId then d.transit i vcClap b
      else
        let msg := packWords 128 [bodySeg b 0, bodySeg b 1]
        let d := d.emit (.inject (gwNode (i / 16)) 3 msg (gwSide (i / 16) 3 clapNode msg))
        match d.msgTake i (bits (bodySeg b 1) 0 64) with
        | some p => f p b d
        | none => d

/-- ARRIVE. -/
def doArrive (i flit : Nat) (d : Dev) : Dev :=
  d.clapFlit i flit 0 fun p b d =>
    let m := bodySeg b 0
    arriveAt p (bits m 0 6) (bits m 16 10) (bits m 32 48) (bits (bodySeg b 1) 0 64) (bits (bodySeg b 1) 64 64) d

/-- RELEASE. -/
def doRelease (i flit : Nat) (d : Dev) : Dev :=
  d.clapFlit i flit 1 fun p b d => releaseAt p (bits (bodySeg b 0) 0 6) d

/-- CLAP_STOP. -/
def doClapStop (i flit : Nat) (d : Dev) : Dev :=
  d.clapFlit i flit 2 fun p b d =>
    let m := bodySeg b 0
    stopAt p (bits m 0 6) (bits m 16 10) (bits m 8 8) d

/-! ### Training, retraining, recalibration (R294, R295) -/

/-- A link whose cage has a powered cable and that may train. -/
def Dev.mayTrain (d : Dev) (i : Nat) : Bool :=
  i < 64 && d.rdBool (.link i) 0x100 1 && d.rdBool (.cage (i / 4)) 0x104 5

/-- LINK_TRAINED: the partner (device, link, highest generation it offers, family) and this side run the highest
generation both allow; numbering and credits start afresh. -/
def doLinkTrained (i dev plink offer family : Nat) (d : Dev) : Dev :=
  let pg := Page.link i
  if !(i < 64 && d.linkState i = 1) || offer % 4 = 0 || 2 < family % 4 then d
  else
    let gen := min (min (offer % 4) (d.rd pg 0x100 2)) (3 - family % 4)
    let d := ((d.wr pg 0x104 0 2).wr pg 0x104 3 gen).wr pg 0x104 5 1 |>.wr pg 0x104 6 1
    let d := ((d.wr pg 0x108 0 (dev % 1024)).wr pg 0x108 10 (plink % 64)).wr pg 0x108 16 (offer % 4)
    let d := (d.wr pg 0x108 18 (family % 4)).wr pg 0x108 20 1
    let d := ((d.wr pg 0x110 0 0).wr pg 0x110 8 0).wr pg 0x110 16 0
    let d := d.modLink i fun s => { s with
      replay := [], bulk := 64, red := 32, ctlCr := 32, rxSeq := 255, heard := false, half := none, due := 0, nak := false, failed := none, corr := [] }
    d.cageSettle (i / 4)

/-- LINK_TRAIN_FAIL: the attempt leaves the link DOWN. -/
def doLinkTrainFail (i : Nat) (d : Dev) : Dev :=
  if i < 64 && d.linkState i = 1 then (d.wr (.link i) 0x104 0 0).cageSettle (i / 4) else d

/-- LINK_TRAIN_RETRY: a new attempt while the cable is present. -/
def doLinkTrainRetry (i : Nat) (d : Dev) : Dev :=
  if d.mayTrain i && d.linkState i = 0 then d.startTraining i else d

/-- RETRAIN: held while a running take lists the link. -/
def Dev.linkRetrain (d : Dev) (i : Nat) : Dev :=
  let st := d.linkState i
  if (d.takeOf (.link i)).isSome && d.mayTrain i then d.modLink i fun s => { s with retrain := true }
  else if !d.mayTrain i || 3 < st then d
  else d.startTraining i

/-- A recalibration asks for the maintenance lock of every vault that a write flow of the link names. -/
def Dev.recalAsk (d : Dev) (i : Nat) : Dev :=
  (d.writeVaults i).foldl (fun d v => d.askLock (vaultLock v) 4) (d.modLink i fun s => { s with recal := 2 })

/-- RECAL: held while a running take lists the link, whatever the link's state is then. -/
def Dev.linkRecal (d : Dev) (i : Nat) : Dev :=
  let used := (d.takeOf (.link i)).isSome
  if (d.link i).recal != 0 || (!used && d.linkState i != 2 && d.linkState i != 3) then d
  else
    let d := d.wr (.link i) 0x104 8 1
    if used then d.modLink i fun s => { s with recal := 1 } else d.recalAsk i

/-- RECALIBRATION_DONE: the link is back in service, and its locks are released. -/
def doRecalibrationDone (i : Nat) (d : Dev) : Dev :=
  if i < 64 && d.recalibrating i then
    let d := (d.writeVaults i).foldl (fun d v => d.unlock (vaultLock v) 4) d
    (d.modLink i fun s => { s with recal := 0 }).wr (.link i) 0x104 8 0
  else d

/-- Requests held for a take that has left its links start where the link's state allows them then (R295). -/
def Dev.linksFreed (d : Dev) : Dev :=
  forN 64 (fun i d =>
    let l := d.link i
    if (l.retrain || l.recal = 1) && (d.takeOf (.link i)).isNone then
      let d := if l.recal != 1 then d
        else if d.linkState i = 2 || d.linkState i = 3 then d.recalAsk i
        else (d.modLink i fun s => { s with recal := 0 }).wr (.link i) 0x104 8 0
      if !l.retrain then d
      else if d.mayTrain i && d.linkState i ≤ 3 then d.startTraining i
      else d.modLink i fun s => { s with retrain := false }
    else d) d

/-- POSTING: the take's records are posted and everything that waited for its end happens. -/
def doPosting (p : Port) (d : Dev) : Dev := (posting p d).linksFreed

/-- LOSS_OF_SIGNAL. -/
def doLossOfSignal (i : Nat) (d : Dev) : Dev :=
  if i < 64 && d.linkState i != 6 then d.linkDown i 0 else d

/-- LINK_CTRL.enable: a disabled link leaves service; an enabled one trains. -/
def Dev.linkEnable (d : Dev) (i : Nat) : Dev :=
  if !d.rdBool (.link i) 0x100 1 then (if d.linkState i = 6 then d else d.linkDown i 6)
  else if d.linkState i != 6 then d
  else
    let d := d.wr (.link i) 0x104 0 0
    if d.mayTrain i then d.startTraining i else d

/-- LINK_DRAINED: the replay buffer is acknowledged and no take needs the link any more (R427). -/
def doLinkDrained (i : Nat) (d : Dev) : Dev :=
  let needed := allPorts.any fun p =>
    let t := d.take p
    let st := d.takeState p
    (st == stRunning || st == stPosting) && t.links.contains i &&
      !(t.cs.routes.any fun r => r.num == t.activeSet && r.num != 0 && bit r.trigger i && bit t.failedLinks i)
  if i < 64 && d.linkState i = 4 && (d.link i).replay.isEmpty && !needed then
    (d.wr (.link i) 0x104 0 5).cageDrained (i / 4)
  else d

/-- A DRAINED link returns to service. -/
def Dev.undrained (d : Dev) (i : Nat) : Dev :=
  if d.linkState i != 5 then d
  else
    d.wr (.link i) 0x104 0 (if d.rdBool (.link i) 0x104 5 && d.rdBool (.link i) 0x104 6 then 2 else 3)

/-- UNDRAIN; the cage is in service again once none of its links is DRAINED. -/
def Dev.linkUndrain (d : Dev) (i : Nat) : Dev :=
  let d := d.undrained i
  if d.cageState (i / 4) = 5 && (cageLinks (i / 4)).all fun j => d.linkState j != 5 then d.setCage (i / 4) 3 else d

/-! ### Cages (R426 to R430) -/

/-- A touch, a drain command, or a press in SERVICE. -/
def Dev.cageDrain (d : Dev) (k : Nat) : Dev :=
  match d.cageState k with
  | 3 =>
    let d := d.setCage k 4
    let d := (cageLinks k).foldl (fun d i =>
      if d.linkState i = 2 || d.linkState i = 3 then (d.drainNotice i).drainLink i else d) d
    d.cageDrained k
  | 2 =>
    let d := (cageLinks k).foldl (fun d i =>
      if d.linkState i = 2 || d.linkState i = 3 then d.wr (.link i) 0x104 0 5 else d) d
    d.setCage k 5
  | _ => d

/-- TOUCH: a contact of `ms` milliseconds. -/
def doTouch (k ms : Nat) (d : Dev) : Dev :=
  if 16 ≤ k || ms < 300 || !d.rdBool (.cage k) 0x100 2 then d
  else (d.bump (.cage k) 0x040 1).cageDrain k

/-- ATTENTION_BUTTON. -/
def doAttentionButton (k : Nat) (d : Dev) : Dev :=
  if 16 ≤ k || !d.rdBool (.cage k) 0x100 3 then d
  else
    let d := d.bump (.cage k) 0x048 1
    match d.cageState k with
    | 3 => d.cageDrain k
    | 2 => d.setCage k 3
    | 5 => if d.rdBool (.cage k) 0x104 3 then ((cageLinks k).foldl Dev.undrained d).setCage k 3 else d
    | _ => d

/-- The power of the cables changes; the sluice forms B again (R428). -/
def Dev.cablePower (d : Dev) (pc : Nat) : Dev := (d.wr .modPage 0x10C 0 pc).formBudget

/-- CABLE_INSERT: the cable's CMIS memory says whether it is an eight-lane OSFP cable, its declared power in
quarter watts, and its identifier. -/
def doCableInsert (k : Nat) (osfp8 : Bool) (power ident : Nat) (d : Dev) : Dev :=
  let pg := Page.cage k
  if 16 ≤ k || (findKey k d.pwr.cables).isSome then d
  else
    let d := { d with pwr := { d.pwr with cables := tput d.pwr.cables k (osfp8, power, ident) } }
    if !d.rdBool .ident 0x100 0 then d
    else
    let pc := d.rd .modPage 0x10C 0
    let d := ((d.bump pg 0x050 1).wr pg 0x104 3 1).wr pg 0x10C 0 (power % 256)
    let d := d.wr pg 0x10C 8 (ident % 256)
    if !osfp8 || 60 < power || 800 < pc + power then (d.logErr pg 0x20 power).setCage k 6
    else ((d.wr pg 0x104 5 1).setCage k 1).cablePower (pc + power)

/-- Power a cage's cable off. -/
def Dev.cableOff (d : Dev) (k : Nat) : Dev :=
  if d.rdBool (.cage k) 0x104 5 then
    (d.wr (.cage k) 0x104 5 0).cablePower (d.rd .modPage 0x10C 0 - d.rd (.cage k) 0x10C 0)
  else d

/-- CABLE_READY: the powered cable reports ready and its links train; or it reports a fault. -/
def doCableReady (k : Nat) (fault : Bool) (d : Dev) : Dev :=
  if 16 ≤ k || d.cageState k != 1 then d
  else if fault then ((d.logErr (.cage k) 0x23 (d.rd (.cage k) 0x10C 8)).setCage k 6).cableOff k
  else (cageLinks k).foldl (fun d i => if d.mayTrain i && d.linkState i = 0 then d.startTraining i else d) d

/-- CABLE_REMOVED. -/
def doCableRemoved (k : Nat) (d : Dev) : Dev :=
  let pg := Page.cage k
  let d := { d with pwr := { d.pwr with cables := tdel d.pwr.cables k } }
  if 16 ≤ k || !d.rdBool pg 0x104 3 then d
  else
    let st := d.cageState k
    let d := if st = 5 then d else d.logErr pg 0x22 st
    let d := (cageLinks k).foldl (fun d i => if d.linkState i = 6 then d else d.linkDown i 0) d
    let d := (d.cableOff k).setCage k 0
    ((d.wr pg 0x104 3 0).wr pg 0x104 4 0).wr pg 0x10C 0 0 |>.wr pg 0x10C 8 0

/-- LINK_CMD: retrain, recal, drain, undrain (R315, R426). -/
def Dev.linkCmd (d : Dev) (i w : Nat) : Dev :=
  let d := if bit w 0 then d.linkRetrain i else d
  let d := if bit w 1 then d.linkRecal i else d
  let d := if bit w 2 then d.cageDrain (i / 4) else d
  if bit w 3 then d.linkUndrain i else d

end Sys2Proof.Machine
end

