-- ==== Sys2Proof/Machine/Control.lean ====
section
/-!
DEFINITION. The control complex: repair commands and spare substitution (R355 to R364), partition plans (R327 to
R330, R448), firmware (R407 to R411), resets and power (R396 to R406, R331, R332, R380, R418).
-/

namespace Sys2Proof.Machine

/-- The page of a block type and instance (R437). -/
def pageById (ty inst : Nat) : Option Page :=
  match ty with
  | 0x0001 => ([Page.cc, .ident, .mbox 0, .mbox 1, .part, .gen 0, .gen 1, .reel 0, .reel 1, .rep 0, .rep 1, .fw]).find?
      fun pg => pg.blkInstance == inst
  | 0x0002 => if inst = 0 then some .sluice else none
  | 0x0003 => if inst = 0 then some .entCell else if inst ≤ 2 then some (.entPort (inst - 1)) else none
  | 0x0010 => if inst < 2 then some (.hp inst) else none
  | 0x0020 => if inst / 16 < 16 && inst % 16 < 11 then some (.router (inst / 16) (inst % 16)) else none
  | 0x0030 => if inst < 144 then some (.tile inst) else none
  | 0x0040 => if inst < 4 then some (.me inst) else none
  | 0x0050 => if inst < 16 then some (.ve inst) else none
  | 0x0060 => if inst < 16 then some (.vc inst) else none
  | 0x0070 => if inst < 68 then some (.arb inst) else none
  | 0x0080 => if inst < 32 then some (.pump inst) else none
  | 0x0090 => if inst = 0 then some .wellHdr else none
  | 0x00A0 => if inst < 64 then some (.link inst) else if inst < 68 then some (.gw (inst - 64))
      else if inst = 68 then some .routeHdr else none
  | 0x00B0 => if inst < 16 then some (.cage inst) else if inst = 16 then some .modPage else none
  | 0x00C0 => if inst = 0 then some .clap else none
  | _ => none

/-! ### Repair commands (R363, R364) -/

/-- Offsets that a RELOAD leaves: identity, owner, presence and epoch of the header; what a link or a router
reports of its wires; the bank and vault entries of a vault controller, whose rules are their own. -/
def Page.keepsOnReload (pg : Page) (o : Nat) : Bool :=
  o < 0x010 || o == 0x014 || o == 0x030 ||
    (match pg with
      | .link _ => o == 0x104 || o == 0x108 || o == 0x110
      | .router _ _ => o == 0x104 || (0x1000 ≤ o && o < 0x1010) || o == 0x1014
      | .vc _ => (0x200 ≤ o && o < 0x400) || 0x1000 ≤ o
      | .tile _ => o == 0x108
      | _ => false)

/-- A link whose LINK_CTRL is back at its reset value is enabled. -/
def Dev.linkFollow (d : Dev) (pg : Page) : Dev :=
  match pg with
  | .link i => d.linkEnable i
  | _ => d

/-- Return a unit's pages to their reset values, clear a tile's SRAM, give it the partition's epoch. -/
def Dev.reloadUnit (d : Dev) (pg : Page) : Dev :=
  let spare := d.rd pg 0x104 5
  let d := d.resetPage pg (2 ^ pg.windowLog2) pg.keepsOnReload
  let d := match pg with
    | .tile s => ((d.clearSram pg).setTile s {}).wr pg 0x104 5 spare
    | _ => d
  let d := d.linkFollow pg
  if d.owner pg < 2 && pg.hasEpoch then d.setEpoch pg (d.rd (.mbox (d.owner pg)) 0x150 0) else d

def Dev.repResult (d : Dev) (p : Port) (code : Nat) : Dev := d.wr (.rep p.idx) 0x104 8 code

/-- Does a LOADED or RUNNING take list a page? -/
def Dev.takeLists (d : Dev) (pg : Page) : Bool :=
  allPorts.any fun p => (d.takeState p == stLoaded || d.takeState p == stRunning) && (d.takePages p).contains pg

/-- A BIST holds, or releases, the maintenance lock of each bank of its site (R230). -/
def Dev.bistLocks (d : Dev) (pg : Page) (hold : Bool) : Dev :=
  forN pg.banks (fun k d =>
    let b := pg.bank k
    if hold then d.askLock (bankLock b.1 b.2) 5 else d.unlock (bankLock b.1 b.2) 5) d

/-- REP_CTRL.cmd: 1 BIST of the site in REP_TARGET.instance, 2 RELOAD of the block in REP_TARGET. -/
def Dev.repCommand (d : Dev) (p : Port) (cmd : Nat) : Dev :=
  let rep := Page.rep p.idx
  let inst := d.rd rep 0x108 16
  let ty := if cmd = 1 then 0x0030 else d.rd rep 0x108 0
  if cmd = 0 then d
  else if d.rdBool rep 0x104 0 then d.repResult p 0x64
  else match pageById ty inst with
    | none => d.repResult p 0x62
    | some pg =>
      if !d.owns p pg then d.repResult p 0x62
      else if d.rd pg 0x014 0 = 0 then d.repResult p 0x63
      else if (if cmd = 1 then d.takeLists pg else d.inTake pg) then d.repResult p 0x60
      else
        let d := { d.wr rep 0x104 0 1 with ctl := { d.ctl with repJob := tput d.ctl.repJob p.idx (cmd, ty, inst) } }
        if cmd = 1 then d.bistLocks pg true else d

/-- REPAIR_COMMAND_DONE: the command in progress on port p ends; `pass` is the outcome of a BIST. -/
def doRepairCommandDone (p : Port) (pass : Bool) (d : Dev) : Dev :=
  match findKey p.idx d.ctl.repJob with
  | none => d
  | some (cmd, ty, inst) =>
    let d := { d.wr (.rep p.idx) 0x104 0 0 with ctl := { d.ctl with repJob := tdel d.ctl.repJob p.idx } }
    match pageById ty inst with
    | none => d
    | some pg =>
      if cmd = 1 then
        let d := (d.bistLocks pg false).clearSram pg
        if pass then (d.reloadUnit pg).repResult p 0
        else (match pg with
          | .tile s => (d.failSite s).repResult p 0x61
          | _ => d.repResult p 0x61)
      else (d.reloadUnit pg).repResult p 0

/-! ### Spare substitution (R357, R358, R360) -/

/-- Distance of two sites' nodes, then 1 for another quadrant, then the index: the order of preference. -/
def spareRank (s t : Nat) : Nat :=
  let dc := (siteCol s - siteCol t) + (siteCol t - siteCol s)
  let dr := (siteRow s - siteRow t) + (siteRow t - siteRow s)
  ((dc + dr) * 2 + (if siteCol s / 4 = siteCol t / 4 then 0 else 1)) * 256 + t

/-- A site that can stand in for a failed site of its column or an adjacent one, in the same partition. -/
def Dev.spareFor (d : Dev) (s t : Nat) : Bool :=
  d.siteCode t == 1 && d.rdBool (.tile t) 0x014 0 && d.rd (.tile t) 0x108 0 == 0xFF &&
    d.owner (.tile t) == d.owner (.tile s) && siteCol t ≤ siteCol s + 1 && siteCol s ≤ siteCol t + 1

def Dev.bestSpare (d : Dev) (s : Nat) : Option Nat :=
  ((List.range 144).filter (d.spareFor s)).foldl (fun acc t =>
    match acc with
    | some u => if spareRank s t < spareRank s u then some t else some u
    | none => some t) none

/-- No substitution is in progress any more. -/
def Dev.substOver (d : Dev) : Dev :=
  { allPorts.foldl (fun d p => d.wr (.rep p.idx) 0x104 2 0) d with ctl := { d.ctl with subst := none } }

/-- Seek a spare for a failed site: BIST runs on the best candidate under its banks' locks (R363), or the device demotes.
A site that has come to no partition needs none. -/
def Dev.seekSpare (d : Dev) (s : Nat) : Dev :=
  let p := d.owner (.tile s)
  if 2 ≤ p then d.substOver
  else match d.bestSpare s with
    | some t => { (d.bistLocks (.tile t) true).wr (.rep p) 0x104 2 1 with ctl := { d.ctl with subst := some (s, t) } }
    | none => d.substOver.demote (siteCol s)

/-- SUBSTITUTION: the next failed site whose partition runs no take and has posted its records. -/
def doSubstitution (d : Dev) : Dev :=
  if d.ctl.subst.isSome then d
  else
    let free (s : Nat) : Bool :=
      let own := d.owner (.tile s)
      own != 0 && own != 1 || (let st := d.takeState (Port.ofIdx own); st != stRunning && st != stPosting)
    match d.ctl.substQ.find? free with
    | none => d
    | some s => ({ d with ctl := { d.ctl with substQ := d.ctl.substQ.erase s } }).seekSpare s

/-- SUBSTITUTION_DONE: the spare's BIST has ended. A spare that fails is marked failed, and the next is tried. -/
def doSubstitutionDone (pass : Bool) (d : Dev) : Dev :=
  match d.ctl.subst with
  | none => d
  | some (s, t) =>
    let own := d.owner (.tile s)
    let d := d.bistLocks (.tile t) false
    if !pass then (d.failSite t).seekSpare s
    else if 2 ≤ own then d.substOver
    else
      let pg := Page.tile t
      let home := tget s d.record.spareMap s
      let logical := d.rd (.tile s) 0x108 0
      let d := (d.clearSram pg).setTile t {}
      let d := ((d.wr pg 0x108 0 logical).wr pg 0x104 5 1).wr (.tile s) 0x108 0 0xFF
      let r := d.record
      let d := d.putRecord { r with spareMap := tput (tdel r.spareMap s) t home }
      let d := d.setEpoch pg (d.rd (.mbox own) 0x150 0)
      ((d.repCount pg 0x040).faultLog pg 7 t).countSpares.substOver

/-! ### Partition plans (R327 to R330, R447, R448) -/

/-- The words of a plan view: staged at 0x100, in force at 0x180. -/
def Dev.planWords (d : Dev) (base : Nat) : List Nat := (List.range 9).map fun i => d.word .part (base + 4 * i)

def planGet (ws : List Nat) (i lo w : Nat) : Nat := bits (ws.getD i 0) lo w

/-- Partition that a plan gives a column, an engine, a link. -/
def planCol (ws : List Nat) (c : Nat) : Nat :=
  if bit (ws.getD 0 0) c then 0 else if bit (ws.getD 0 0) (16 + c) then 1 else 3
def planPump (ws : List Nat) (n : Nat) : Nat := if bit (ws.getD 1 0) n then 0 else if bit (ws.getD 2 0) n then 1 else 3
def planLink (ws : List Nat) (i : Nat) : Nat :=
  if bit (ws.getD (3 + i / 32) 0) (i % 32) then 0 else if bit (ws.getD (5 + i / 32) 0) (i % 32) then 1 else 3

/-- Column that a block follows. -/
def Page.column : Page → Option Nat
  | .tile s => some (siteCol s)
  | .router c _ | .slot c _ | .vc c => some c
  | .me q => some (4 * q + 2)
  | .ve e => some (veCol e)
  | .arb i => some (if i < 64 then i / 4 else 4 * (i - 64) + 3)
  | .gw q => some (4 * q + 3)
  | _ => none

/-- Partition that a plan gives a page. -/
def planOf (ws : List Nat) (pg : Page) : Nat :=
  match pg with
  | .pump n => planPump ws n
  | .link i => planLink ws i
  | _ => match pg.column with
    | some c => planCol ws c
    | none => 2

/-- Pages that a plan assigns. -/
def planPages : List Page :=
  tilePages ++ mePages ++ vePages ++ vcPages ++ routerPages ++
    ((List.range 16).flatMap fun c => (List.range 11).map fun r => Page.slot c r) ++
    (List.range 68).map .arb ++ (List.range 32).map .pump ++ linkPages ++ gwPages

/-- Is a set of columns contiguous? -/
def contiguous (mask : Nat) : Bool :=
  let cs := (List.range 16).filter (bit mask)
  match cs.head?, cs.getLast? with
  | some a, some b => b - a + 1 == cs.length
  | _, _ => true

/-- Pages that a staged plan moves. -/
def Dev.movedPages (d : Dev) (ws : List Nat) : List Page :=
  planPages.filter fun pg => planOf (d.planWords 0x180) pg != planOf ws pg

/-- Result of checking a staged plan against the plan in force (R329, R448). -/
def Dev.planCheck (d : Dev) (ws : List Nat) : Nat :=
  let old := d.planWords 0x180
  let moved := d.movedPages ws
  let busy (n : Nat) : Bool := (n == 0 || n == 1) && d.takeState (Port.ofIdx n) != stIdle
  let semsMove := (List.range 8).filter fun i => planGet old 7 (2 * i) 2 != planGet ws 7 (2 * i) 2
  let clapMove (p : Nat) : Bool := planGet old 8 (16 * p) 16 != planGet ws 8 (16 * p) 16
  let both (a b : Nat) : Bool := (ws.getD a 0) &&& (ws.getD b 0) != 0
  let range (p : Nat) : Nat × Nat := (planGet ws 8 (16 * p) 6, planGet ws 8 (16 * p + 8) 7)
  let ra := range 0
  let rb := range 1
  let cols (p : Nat) : Nat := planGet ws 0 (16 * p) 16
  if planGet ws 0 0 16 &&& planGet ws 0 16 16 != 0 || both 1 2 || both 3 5 || both 4 6 then 0x84
  else if !(contiguous (cols 0) && contiguous (cols 1)) then 0x82
  else if 64 < ra.1 + ra.2 || 64 < rb.1 + rb.2 || (ra.1 < rb.1 + rb.2 && rb.1 < ra.1 + ra.2 && ra.2 != 0 && rb.2 != 0) ||
      (cols 0 != 0 && ra.2 < 2) || (cols 1 != 0 && rb.2 < 2) then 0x85
  else if moved.any (fun pg => busy (planOf old pg) || busy (planOf ws pg)) ||
      semsMove.any (fun i => busy (planGet old 7 (2 * i) 2) || busy (planGet ws 7 (2 * i) 2)) ||
      (clapMove 0 && busy 0) || (clapMove 1 && busy 1) then 0x80
  else if (List.range 32).any (fun n => planPump old n != planPump ws n &&
      ((d.prog n).isSome || (List.range 2048).any fun k => d.wellOn (wellOf n k))) then 0x81
  else 0

/-- Every bank of a column to none. -/
def Dev.dropColumn (d : Dev) (c : Nat) : Dev := forN (banksOf c) (fun b d => d.giveBank (c, b) (0, 0)) d

/-- PART_CMD: 1 APPLY, 2 COPY. From the apply on the vaults that move are being cleared (R238, log 206), and the banks
that move have no owner (chapter 14, Coincidences); a merge they had accepted still ends by its MERGE_WRITE. -/
def Dev.partCommand (d : Dev) (cmd : Nat) : Dev :=
  if cmd = 1 then
    if d.ctl.plan.isSome then d.wr .part 0x1C4 8 0x83
    else
      let ws := d.planWords 0x100
      let r := d.planCheck ws
      if r != 0 then d.wr .part 0x1C4 8 r
      else
        let d := (d.movedPages ws).foldl (fun d pg =>
          match pg with
          | .vc c => forN 32 (fun j d => if d.vaultField (32 * c + j) 4 0 = 2 then d else d.setVault (32 * c + j) 4 0 1)
            (forN (banksOf c) (fun b d => d.setOwner (c, b) (0, 0)) d)
          | _ => d) d
        { d.wr .part 0x1C4 0 1 with ctl := { d.ctl with plan := some ws } }
  else if cmd = 2 then
    if d.ctl.plan.isSome then d.wr .part 0x1C4 8 0x83
    else
      (d.planWords 0x180).zipIdx.foldl (fun d (x : Nat × Nat) =>
        d.putFields .part (0x100 + 4 * x.2) x.1 fun _ => true) (d.wr .part 0x1C4 8 0)
  else d

/-- Give a page to a partition, empty: everything but its identity and presence, what a link or router reports of its
wires, and what has retired returns to its reset value. -/
def Dev.movePage (d : Dev) (pg : Page) (part : Nat) : Dev :=
  let keep (o : Nat) : Bool := o < 0x00C || o == 0x014 || (match pg with
    | .vc c => (0x200 ≤ o && o < 0x400 && (o % 16 == 4 || o % 16 == 12)) ||
        0x8000 ≤ o || (0x1000 ≤ o && (o % 16 == 12 || (o % 16 == 8 && !d.rdBool (bankBlock c ((o - 0x1000) / 16)) 0x014 0)))
    | .link _ => o == 0x104 || o == 0x108 || o == 0x110
    | .router _ _ => o == 0x104
    | _ => false)
  let size := match pg with
    | .router _ _ | .slot _ _ => 0x1000
    | _ => 2 ^ pg.windowLog2
  let d := (d.resetPage pg size keep).wr pg 0x00C 0 part
  let d := if pg.isMember then d.setEpoch pg 0 else d
  match pg with
  | .tile s => ((d.clearSram pg).setTile s {}).wr pg 0x108 0 0xFF
  | .me _ | .ve _ => d.clearSram pg
  | .link _ => d.linkFollow pg
  | .vc c =>
    let d := forN (banksOf c) (fun b d => d.setBank c b 0xC 0 0) (d.dropColumn c)
    forN 32 (fun j d =>
      let v := 32 * c + j
      if d.vaultField v 4 0 = 2 then d
      else ((d.clearMem (v * 2 ^ 27) (2 ^ 27)).setVault v 12 0 part).setVault v 0 0 0 |>.setVault v 4 0 0) d
  | .pump n =>
    let hit (k : Nat) : Bool :=
      let a := k / 32
      decide (0x1000000 + 0x10000 * n ≤ a ∧ a < 0x1000000 + 0x10000 * (n + 1))
    { d.setPump n {} with regs := d.regs.resetWhere hit }
  | _ => d

/-- PLAN_APPLIED: the plan is in force; the units that move are emptied, and both ports have the `part` event. -/
def doPlanApplied (d : Dev) : Dev :=
  match d.ctl.plan with
  | none => d
  | some ws =>
    let old := d.planWords 0x180
    let moved := d.movedPages ws
    let changed (n : Nat) : Bool := moved.any fun pg => planOf old pg == n || planOf ws pg == n
    let d := moved.foldl (fun d pg => match pg with | .vc c => d.dropColumn c | _ => d) d
    let d := moved.foldl (fun d pg => d.movePage pg (planOf ws pg)) d
    let d := ws.zipIdx.foldl (fun d (x : Nat × Nat) => d.putFields .part (0x180 + 4 * x.2) x.1 fun _ => true) d
    let d := allPorts.foldl (fun d p => if changed p.idx then (d.renumber p).bumpEpoch p else d) d
    let d := moved.foldl (fun d pg => if pg.isMember then d.setEpoch pg 0 else d) d
    let d := (d.countSpares.wr .part 0x1C4 0 0).wr .part 0x1C4 8 0
    let d := { d with ctl := { d.ctl with plan := none } }
    (d.hpEvent .a 1).hpEvent .b 1

/-! ### Firmware (R407 to R411, R415) -/

/-- Change a slot; the page shows what it holds. -/
def Dev.setFwSlot (d : Dev) (i : Nat) (s : FwSlot) : Dev :=
  let d := { d with ctl := if i = 0 then { d.ctl with fwA := s } else { d.ctl with fwB := s } }
  (d.wrBool .fw 0x104 (3 + i) s.valid).wr .fw (0x114 + 4 * i) 0 (if s.valid then s.version else 0)

def Dev.fwResult (d : Dev) (code : Nat) : Dev := d.wr .fw 0x104 8 code

/-- Check an image as the boot ROM does (R408): 0, BAD_SIG, or ROLLBACK. -/
def fwCheck (image : List Byte) (svnMin : Nat) : Nat :=
  let num (o n : Nat) : Nat := leNat ((image.drop o).take n)
  let body := num 0x0C 4
  if num 0 4 != 0x57464B49 || image.length < 128 + body || 1 < num 0x13 1 || num 0x14 44 != 0 ||
      !Config.edVerify (num 0x13 1) (image.take 0x40 ++ (image.drop 128).take body) ((image.drop 0x40).take 64) then 0x70
  else if num 0x08 4 < svnMin then 0x71
  else 0

/-- A slot with an image that verifies. -/
def fwSlotOf (image : List Byte) : FwSlot :=
  let num (o n : Nat) : Nat := leNat ((image.drop o).take n)
  { image := image, valid := true, version := num 4 4, svn := num 8 4, low := num 0x10 1 % 16, high := num 0x10 1 / 16,
    majors := num 0x11 1, minor := num 0x12 1 }

/-- The running image's host levels (HOST_IFACE_ACT). -/
def Dev.showIface (d : Dev) : Dev :=
  let s := d.fwSlot d.fwRunning
  allPorts.foldl (fun d p => (d.wr (mboxPage p) 0x158 8 s.low).wr (mboxPage p) 0x158 12 s.high) d

/-- Stage 3: the first slot that verifies, the boot slot first (R408). -/
def Dev.bootSlot (d : Dev) : Option Nat :=
  let ok (i : Nat) : Bool := (d.fwSlot i).valid && d.record.svn ≤ (d.fwSlot i).svn
  if ok d.record.boot then some d.record.boot else if ok (1 - d.record.boot) then some (1 - d.record.boot) else none

/-- Held in stage 3 because neither image verifies: the boot ROM takes an update into slot A (R398). -/
def Dev.bootRom (d : Dev) : Bool := !d.rdBool .ident 0x100 0 && d.bootSlot.isNone

/-- The slot an update writes: the one that is not running (R409). -/
def Dev.fwNextSlot (d : Dev) : Nat := if d.bootRom then 0 else 1 - d.fwRunning

/-- FW_CTRL.cmd: 1 WRITE, 2 VERIFY, 3 ACTIVATE, 4 CANCEL. -/
def Dev.fwCommand (d : Dev) (cmd : Nat) : Dev :=
  let next := d.fwNextSlot
  let s := d.fwSlot next
  if cmd = 0 then d
  else if d.rdBool .fw 0x104 0 then d.fwResult 0x73
  else if cmd = 1 then
    if d.rdBool .fw 0x104 1 then d.fwResult 0x73
    else if 2 ^ 24 < d.rd .fw 0x110 0 then d.fwResult 0x74
    else { d.wr .fw 0x104 0 1 with ctl := { d.ctl with fwJob := 1 } }
  else if cmd = 2 then { d.wr .fw 0x104 0 1 with ctl := { d.ctl with fwJob := 2 } }
  else if cmd = 3 then
    if d.rdBool .fw 0x104 1 then d.fwResult 0x73
    else if !s.valid then d.fwResult 0x70
    else
      let level (p : Port) : Nat := d.rd (mboxPage p) 0x158 0
      let major (p : Port) : Bool := d.takeState p == stLoaded && !bit s.majors (d.take p).cs.major
      if allPorts.any (fun p => level p < s.low || s.high < level p || major p) then d.fwResult 0x72
      else if s.svn < (d.fwSlot d.fwRunning).svn then d.fwResult 0x71
      else { (d.wr .fw 0x104 1 1).fwResult 0 with ctl := { d.ctl with fwNext := some next } }
  else if cmd = 4 then
    if d.rdBool .fw 0x104 1 && d.ctl.fwPrev.isNone then
      ({ (d.wr .fw 0x104 1 0).fwResult 0x77 with ctl := { d.ctl with fwNext := none } }).mbRelease
    else d
  else d

/-- FW_COMMAND_DONE: a WRITE or VERIFY ends; `flashErr` when the flash fails. A WRITE whose source is not DRAM of
port A's partition writes nothing; the spec gives no result for it. The boot ROM verifies at once what it took, so that the
restart from stage 3 can run it (R398, log 171). -/
def doFwCommandDone (flashErr : Bool) (d : Dev) : Dev :=
  let job := d.ctl.fwJob
  let next := d.fwNextSlot
  let d' := { d.wr .fw 0x104 0 0 with ctl := { d.ctl with fwJob := 0, fwImage := none } }
  if job = 1 then
    match d.ctl.fwImage with
    | some image =>
      if flashErr then d'.fwResult 0x75
      else
        let slot := if d.bootRom && fwCheck image d.record.svn = 0 then fwSlotOf image else { image := image }
        (d'.setFwSlot next slot).fwResult 0
    | none =>
    let a := 64 * d.rd .fw 0x108 6 + 2 ^ 32 * d.rd .fw 0x10C 0
    let n := d.rd .fw 0x110 0
    if flashErr then d'.fwResult 0x75
    else if !d.dramOwned .a a n then
      let (r, d') := d'.fresh
      d'.fwResult (r % 256)
    else (d'.setFwSlot next { image := d.bytes a n }).fwResult 0
  else if job = 2 then
    let s := d.fwSlot next
    let r := if flashErr then 0x75 else fwCheck s.image d.record.svn
    (if r = 0 then d'.setFwSlot next (fwSlotOf s.image)
      else if flashErr then d' else d'.setFwSlot next { s with valid := false }).fwResult r
  else d

/-- Is a take of either partition in a state that holds an activation back? -/
def Dev.takeBusy (d : Dev) : Bool :=
  allPorts.any fun p => let st := d.takeState p; st == stValidating || st == stWriting || st == stRunning || st == stPosting

/-- ACTIVATION_START: the cores load the new image. When it reports itself alive it records its svn, becomes the boot
image and processes the held commands. -/
def doActivationStart (alive : Bool) (d : Dev) : Dev :=
  match d.ctl.fwNext with
  | none => d
  | some i =>
    if d.takeBusy || d.ctl.fwPrev.isSome then d
    else
      let prev := d.fwRunning
      let d := (d.wr .fw 0x104 2 i).showIface
      if alive then
        let r := d.record
        let d := d.putRecord { r with svn := max r.svn (d.fwSlot i).svn, boot := i }
        ({ d.wr .fw 0x104 1 0 with ctl := { d.ctl with fwNext := none } }).mbRelease
      else { d with ctl := { d.ctl with fwPrev := some prev } }

/-- REVERT: the new image has not reported itself alive; the previous one runs again. -/
def doRevert (d : Dev) : Dev :=
  match d.ctl.fwPrev, d.ctl.fwNext with
  | some prev, some i =>
    let d := d.setFwSlot i { d.fwSlot i with valid := false }
    let d := ((d.wr .fw 0x104 2 prev).showIface.wr .fw 0x104 1 0).fwResult 0x76
    ({ d with ctl := { d.ctl with fwNext := none, fwPrev := none } }).mbRelease
  | _, _ => d

/-! ### Power-up and whole-device reset (R396 to R406) -/

/-- Everything returns to its reset state but the module record, the flash, the pins, the cables and the DRAM
repairs, which the record holds; the count of used free values goes on. -/
def Dev.blank (d : Dev) : Dev :=
  { free := d.free, out := d.out, record := d.record, pwr := { d.pwr with temps := [] }
    banks := { rowsUsed := d.banks.rowsUsed, repairs := d.banks.repairs }
    ctl := { fwA := d.ctl.fwA, fwB := d.ctl.fwB }
    portA := { perst := d.portA.perst, cfg := d.portA.cfg }, portB := { perst := d.portB.perst, cfg := d.portB.cfg } }

/-- Stage 5: the site map, retired blocks and banks, and row repairs that the record holds. -/
def Dev.applyRecord (d : Dev) : Dev :=
  let r := d.record
  let d := forN 144 (fun s d =>
    let code := if r.bad.contains s then 3 else if r.failed.contains s then 2 else if r.spares.contains s then 1 else 0
    let d := d.setSiteCode s code
    if code = 3 || code = 2 then (d.wr (.tile s) 0x014 0 0).wr (.tile s) 0x014 1 1 else d) d
  let d := r.retired.foldl (fun d pg => ((d.wr pg 0x014 0 0).wr pg 0x014 1 1).markRetired pg) d
  let d := if r.retired.isEmpty then d else r.retired.foldl Dev.setService d
  let d := r.badBanks.foldl (fun d b => d.wr (.vc b.1) (0x100C + 16 * b.2) 16 1) d
  forN 512 (fun v d =>
    let n := ((List.range 64).map fun ib => tget 0 d.banks.rowsUsed (64 * v + ib)).sum
    if n = 0 then d else d.setVault v 4 8 n) d

/-- Stage 9: sites that fail BIST are marked; spares are assigned in ascending column order; a column that lacks 8
working sites becomes inactive and its good sites spares (R401). With fewer than 14 columns left, a partition that lost
one gets no take of its grade (R398, R360). -/
def Dev.fixSites (d : Dev) (badSites : List Nat) : Dev :=
  let bad := badSites.filter fun s => decide (s < 144) && !d.record.bad.contains s
  let r := d.record
  let r := { r with failed := bad.foldl (fun l s => if l.contains s then l else s :: l) r.failed,
                    spareMap := r.spareMap.filter fun x => !bad.contains x.1 }
  let d := (if bad.isEmpty then d else d.putRecord r).applyRecord
  let working (d : Dev) (c : Nat) : Bool := (d.homes c).length == 8 && (d.homes c).all fun h =>
    !d.record.failed.contains h || d.record.spareMap.any fun x => x.2 == h
  let d := forN 16 (fun c d =>
    if bit r.inactive c then d
    else (d.homes c).foldl (fun d h =>
      if !d.record.failed.contains h || d.record.spareMap.any (fun x => x.2 == h) then d
      else
        let free := (List.range 144).filter fun t =>
          (d.record.spares.contains t || (bit r.inactive (siteCol t) && !d.record.bad.contains t)) &&
            !d.record.failed.contains t && (findKey t d.record.spareMap).isNone &&
            d.owner (.tile t) == d.owner (.tile h) && siteCol t ≤ c + 1 && c ≤ siteCol t + 1
        match free.foldl (fun (acc : Option Nat) t => match acc with
            | some u => if spareRank h t < spareRank h u then some t else some u
            | none => some t) none with
        | some t => d.putRecord { d.record with spareMap := tput d.record.spareMap t h }
        | none => d) d) d
  let act := (List.range 16).filter fun c => !bit r.inactive c && working d c
  let d := forN 16 (fun c d =>
    if act.contains c then d
    else forN 9 (fun j d => let s := 9 * c + j; if d.siteCode s = 0 then d.setSiteCode s 1 else d) d) d
  let d := (d.wr .ident 0x104 16 (act.map (2 ^ ·)).sum).wr .ident 0x104 0 (8 * act.length)
  let d := (d.renumber .a).renumber .b
  if act.length < 14 then
    let lost := (List.range 16).filter fun c => !bit r.inactive c && !act.contains c
    { d.setService .cc with ctl := { d.ctl with noGrade := allPorts.filter fun p => lost.any fun c => d.owns p (.vc c) } }
  else d

/-- Active tiles of the part number: its last three digits. -/
def ModRec.partTiles (r : ModRec) : Nat :=
  100 * (bits r.part 40 8 % 16) + 10 * (bits r.part 48 8 % 16) + bits r.part 56 8 % 16

/-- Stage 5: the identity page and both plan views show what the record holds (R328, R399, R447). -/
def Dev.applyIdentity (d : Dev) : Dev :=
  let r := d.record
  let d := forN 4 (fun i d => d.wr .ident (0x118 + 4 * i) 0 (bits r.part (32 * i) 32)) d
  let d := (d.wr64 .ident 0x110 r.serial).wr .ident 0x104 8 r.partTiles
  match r.plan with
  | none => d
  | some ws => ws.zipIdx.foldl (fun d (x : Nat × Nat) =>
      (d.putFields .part (0x100 + 4 * x.2) x.1 fun _ => true).putFields .part (0x180 + 4 * x.2) x.1 fun _ => true) d

/-- Units take a plan's partitions at power-up. -/
def Dev.assignPlan (d : Dev) : Dev :=
  let ws := d.planWords 0x180
  let d := planPages.foldl (fun d pg => d.wr pg 0x00C 0 (planOf ws pg)) d
  forN 512 (fun v d => d.setVault v 12 0 (planCol ws (v / 32))) d

/-- A cable found in a cage: refused, or powered and waited for (R428). -/
def Dev.cableFound (d : Dev) (k : Nat) (osfp8 : Bool) (power ident : Nat) : Dev :=
  let pg := Page.cage k
  let pc := d.rd .modPage 0x10C 0
  let d := ((d.wr pg 0x104 3 1).wr pg 0x10C 0 (power % 256)).wr pg 0x10C 8 (ident % 256)
  if !osfp8 || 60 < power || 800 < pc + power then (d.logErr pg 0x20 power).setCage k 6
  else ((d.wr pg 0x104 5 1).setCage k 1).cablePower (pc + power)

/-- Stages 3 to 12 (R396). A failure of R398 leaves the device in stage 3 or 4. -/
def Dev.bringUp (d : Dev) (u : PowerUp) : Dev :=
  let d := d.blank
  let d := d.wrBool .entCell 0x104 9 (!d.pwr.factoryN && d.record.factory)
  let d := d.setFwSlot 0 d.ctl.fwA
  let d := d.setFwSlot 1 d.ctl.fwB
  match d.bootSlot with
  | none => d
  | some i =>
    let d := (d.wr .fw 0x104 2 i).showIface
    if !u.factoryOk then d.wr .ident 0x100 1 4
    else
      let d := if u.fieldOk then d
        else { (d.wr .ident 0x100 5 1) with
                record := { d.record with failed := [], spareMap := [], retired := [], badBanks := [], badVaults := [] }
                banks := {} }
      let d := (d.applyIdentity.assignPlan).applyRecord
      let d := forN 512 (fun v d => d.setVault v 4 0 0) d
      let d := d.record.badVaults.foldl Dev.vaultOut d
      let d := u.badRows.foldl (fun d x => d.retireNow (.row x.1 x.2.1 x.2.2 false)) d
      let d := d.fixSites u.badSites
      let d := d.countSpares
      let d := (unitPages.filter fun pg => d.rdBool pg 0x014 0).foldl (fun d pg => d.setEpoch pg 1) d
      let d := d.pwr.cables.foldl (fun d x => d.cableFound x.1 x.2.1 x.2.2.1 x.2.2.2) d
      (d.wr .ident 0x100 1 12).wr .ident 0x100 0 1

/-- POWER_UP: PWR_EN rises with the input in range. After a thermal trip PWR_EN must have been cycled (R380). -/
def doPowerUp (u : PowerUp) (d : Dev) : Dev :=
  let d := { d with pwr := { d.pwr with en := true } }
  if !d.pwr.inRange || d.pwr.trip || d.rdBool .ident 0x100 0 then d
  else ({ d with pwr := { d.pwr with good := true } }.emit (.pin "PWR_GOOD" true)).bringUp u

/-- The rails fall: no records, every content lost. -/
def Dev.rails (d : Dev) : Dev :=
  { (d.blank.emit (.pin "PWR_GOOD" false)) with pwr := { d.pwr with good := false, temps := [] } }

/-- POWER_DOWN: PWR_EN falls. THERMTRIP_N is released. -/
def doPowerDown (d : Dev) : Dev :=
  let d := d.rails
  let d := if d.pwr.trip then d.emit (.pin "THERMTRIP_N" true) else d
  { d with pwr := { d.pwr with en := false, trip := false } }

/-- INPUT_FAULT: the input stays out of range. -/
def doInputFault (d : Dev) : Dev := { d.rails with pwr := { d.pwr with inRange := false, good := false, temps := [] } }

/-- INPUT_RESTORED: the input has been in range for 100 ms; with PWR_EN high the module powers up. -/
def doInputRestored (u : PowerUp) (d : Dev) : Dev :=
  if d.pwr.inRange then d
  else
    let d := { d with pwr := { d.pwr with inRange := true } }
    if d.pwr.en then doPowerUp u d else d

/-- Is the module powered? -/
def Dev.powered (d : Dev) : Bool := d.pwr.en && d.pwr.inRange && d.pwr.good && !d.pwr.trip

/-- THERMAL_TRIP: a die sensor of a powered module reads 115 °C or more; THERMTRIP_N, and core power goes until PWR_EN is cycled. -/
def doThermalTrip (column temp : Nat) (d : Dev) : Dev :=
  if temp < 115 || !d.powered then d
  else
    let d := ((d.recordErr .sluice .lasting 0x24 column).retryLasting .sluice).faultLog .sluice 0
    let d := (d.emit (.pin "THERMTRIP_N" false)).rails
    { d with pwr := { d.pwr with trip := true } }

/-- Stages 3 to 12 while the rails stay up. -/
def Dev.wholeReset (d : Dev) (u : PowerUp) : Dev := if d.powered then d.bringUp u else d

/-- WHOLE_DEVICE_RESET by the sideband or by a lasting control-complex fault, which is logged (R355, R362). -/
def doWholeDeviceReset (t : Trigger) (u : PowerUp) (d : Dev) : Dev :=
  match t with
  | .sideband => d.wholeReset u
  | .controlComplex =>
    let d := (d.recordErr .cc .lasting 0x21 0).retryLasting .cc
    if d.powered then (d.bringUp u).faultLog .cc 10 else d

/-! ### Port-scope reset (R331) -/

/-- The partition's take ends without records; a capture in progress is abandoned (R340). The slot periods of its
routers and links fall to 0 (R253), and the units that waited for its records are retired (R353). -/
def Dev.dropTake (d : Dev) (p : Port) : Dev :=
  let t := d.take p
  let st := d.takeState p
  let d := if st = stIdle || st = stValidating then d else d.clearPeriods p
  let d :=
    if st = stRunning then
      let ids := (List.range (d.clapRange p).2).filter t.isXdev
      let d := if d.logicalDev t = 0 then d else ids.foldl (fun d id => d.sendClap p 0 id 2 0x07) d
      let d := t.written.foldl (fun d w => d.undefine w.1 w.2) d
      let d := if (d.reel p).capturing then d.freeLocks p else d
      d.leaveRun p
    else d
  let d := { d with sluice := { d.sluice with scale := tdel d.sluice.scale p.idx } }
  let d := ((d.wr .sluice 0x104 (4 + p.idx) 0).setTake p {}).setTakeState p stIdle
  t.retire.foldl (fun d r => d.retireNow r) d

/-- Every bank of the partition to none, guards cleared. -/
def Dev.dropBanks (d : Dev) (p : Port) : Dev :=
  forN 16 (fun c d =>
    if !d.owns p (.vc c) then d
    else
      forN 32 (fun j d => d.setVault (32 * c + j) 0 0 0) (d.dropColumn c)) d

/-- What a port's reset does to the port and its partition. Of HP_STATUS, the fields that report the data link and the
other port (`link_up`, `rate`, `width`, `peer`) go on reporting them (log 190). -/
def Dev.portReset (d : Dev) (p : Port) : Dev :=
  let i := p.idx
  let d := (d.dropTake p).dropBanks p
  let d := (d.resetPumps p).resetEntropy p
  let d := d.eraseKey p
  let d := { d with ctl := { d.ctl with mbox := d.ctl.mbox.filter (·.1 != p), gen := tdel d.ctl.gen i } }
  let d := (d.resetPage (.gen i) 0x1000 fun _ => false).resetPage (.reel i) 0x1000 fun _ => false
  let d := match p with | .a => { d with reelA := {} } | .b => { d with reelB := {} }
  let d := (d.resetPage (.mbox i) 0x1000 fun o => o == 0x150).showIface
  let d := d.resetPage (.hp i) 0x1000 fun o => o == 0x070 || o == 0x104
  let d := ((d.wr (.hp i) 0x104 9 0).wr (.hp i) 0x104 10 0).wr (.hp i) 0x104 13 30
  let d := d.bump (.hp i) 0x070 1
  let d := d.setPort p { d.port p with msix := [], pba := [], d3 := false }
  ((d.wr .sluice (0x108 + 4 * i) 0 0).formBudget).linksFreed

/-- HP_STATUS.peer of the other port, and its event. -/
def Dev.setPeer (d : Dev) (p : Port) (v : Nat) : Dev :=
  if d.rd (.hp p.other.idx) 0x104 11 = v then d else (d.wr (.hp p.other.idx) 0x104 11 v).hpEvent p.other 0

/-- PORT_RESET: with PERST# of the other port asserted too, the whole device resets (R332). -/
def doPortReset (p : Port) (e : PortEvent) (u : PowerUp) (d : Dev) : Dev :=
  let d := if e = .perst then d.setPort p { d.port p with perst := true, cfg := false } else d
  if e = .perst && (d.port p.other).perst then d.wholeReset u
  else
    let ready := d.rdBool .ident 0x100 0
    let d := if ready then d.portReset p else d
    if e = .flr then
      if ready then (d.hpEvent p.other 0) else d
    else
      let d := ((d.wr (.hp p.idx) 0x104 0 0).wr (.hp p.idx) 0x104 1 0).wr (.hp p.idx) 0x104 4 0
      d.setPeer p 2

end Sys2Proof.Machine
end

