-- ==== Sys2Proof/Machine/Host.lean ====
section
/-!
DEFINITION. Host ports: what a port refuses and records, the BAR2 window, the host interface level, link and power
events (R320 to R335, R412, R446).
-/

namespace Sys2Proof.Machine

def hpPage (p : Port) : Page := .hp p.idx

/-- A word of ones, what a refused 32-bit read returns. -/
abbrev ones32 : Nat := 2 ^ 32 - 1

/-! ### Refusals (R335) -/

/-- Count a refused access, capture the first one since `valid` was last read, and raise the event. -/
def Dev.refusal (d : Dev) (p : Port) (bar off : Nat) (write : Bool) : Dev :=
  let pg := hpPage p
  let d := d.bump pg 0x060 1
  let d := if d.rdBool pg 0x11C 31 then d
    else
      let d := (d.wr pg 0x118 0 (off % 2 ^ 32)).wr pg 0x11C 0 (off / 2 ^ 32 % 16)
      ((d.wr pg 0x11C 4 bar).wrBool pg 0x11C 6 write).wr pg 0x11C 31 1
  d.hpEvent p 2

/-- A refused access that the port logs. -/
def Dev.hostRefuse (d : Dev) (p : Port) (bar off : Nat) (write : Bool) (code detail : Nat) : Dev :=
  (d.logErr (hpPage p) code detail).refusal p bar off write

/-- An access of a size or alignment that BAR0 does not take: Completer Abort, and nothing changes (R439). -/
def Dev.completerAbort (d : Dev) (p : Port) : Dev :=
  if !d.rdBool (hpPage p) 0x104 0 then d
  else { d with resp := if (d.port p).d3 then .unsupported else .completerAbort }

/-- All ones of an access of `n` bytes. -/
def onesOf (n : Nat) : Nat := 2 ^ (8 * n) - 1

/-- A BAR access of a host: none without a link, Unsupported Request in D3hot, all ones or nothing until the device
is ready, but for the identity page (R321, R333); otherwise `f`. -/
def Dev.hostAccess (d : Dev) (p : Port) (bar off n : Nat) (write : Bool) (f : Dev → Dev) : Dev :=
  if !d.rdBool (hpPage p) 0x104 0 then d
  else if (d.port p).d3 then { d with resp := .unsupported }
  else
    let d := if write then d.bump (hpPage p) 0x040 n else d
    if !d.rdBool .ident 0x100 0 && (write || bar != 0 || off / 0x1000 != 1) then
      let d := d.hostRefuse p bar off write 0x23 bar
      { d with resp := if write then .ok else .data (onesOf n) }
    else
      let d := f d
      match d.resp with
      | .data _ => if write then d else d.bump (hpPage p) 0x048 n
      | _ => d

/-! ### The BAR2 window (R324, R325) -/

def Dev.winSize (d : Dev) (p : Port) : Nat := 2 ^ d.rd (hpPage p) 0x104 13

/-- HP_WIN_BASE, its bits below the window's size ignored. -/
def Dev.winBase (d : Dev) (p : Port) : Nat :=
  let b := d.rd (hpPage p) 0x108 30 * 2 ^ 30 + d.rd (hpPage p) 0x10C 0 * 2 ^ 32
  b / d.winSize p * d.winSize p

/-- Code that a target's refusal carries: that of R243, or DRAM_UNCORR or SRAM_UNCORR for lost data. -/
def servedCode (a : Nat) : Served → Nat
  | .refused c => c
  | .lost => if a < 2 ^ 36 then 0x24 else 0x25
  | _ => 0

/-- BAR2_READ of `n` bytes at window offset `off`. -/
def doBar2Read (p : Port) (off n : Nat) (d : Dev) : Dev :=
  if n = 0 || d.winSize p < off + n then d
  else d.hostAccess p 1 off n false fun d =>
    let d := d.bump (hpPage p) 0x050 1
    match d.readLines (.window p) (lines (d.winBase p + off) n) [] with
    | ((bs, none), d) => { d with resp := .data (leNat bs) }
    | ((_, some (a, s)), d) =>
      { d.hostRefuse p 1 off false 0x20 (servedCode a s) with resp := .completerAbort }

/-- BAR2_WRITE of bytes at window offset `off`; `badEcrc`: the TLP fails its ECRC check. -/
def doBar2Write (p : Port) (off : Nat) (bs : List Byte) (badEcrc : Bool) (d : Dev) : Dev :=
  if bs.isEmpty || d.winSize p < off + bs.length || !d.rdBool (hpPage p) 0x104 0 then d
  else if badEcrc && d.rdBool (hpPage p) 0x104 9 then
    (d.bump (hpPage p) 0x068 1).logErr (hpPage p) 0x22 0
  else d.hostAccess p 1 off bs.length true fun d =>
    let d := d.bump (hpPage p) 0x058 1
    match d.writeLines (.window p) (lines (d.winBase p + off) bs.length) bs with
    | (none, d) => { d with resp := .ok }
    | (some (a, s), d) =>
      { d.hostRefuse p 1 off true 0x20 (servedCode a s + 2 ^ 8) with resp := .completerAbort }

/-! ### Host interface level (R412, R446) -/

/-- The highest level in both ranges, if any. -/
def ifaceLevel (low high fwLow fwHigh : Nat) : Option Nat :=
  let h := min high fwHigh
  if max low fwLow ≤ h then some h else none

/-- A write of HOST_IFACE_REQ. -/
def Dev.ifaceWrite (d : Dev) (p : Port) (w : Nat) : Dev :=
  let pg := mboxPage p
  let low := bits w 0 4
  let high := bits w 4 4
  let d := (d.wr pg 0x154 0 low).wr pg 0x154 4 high
  if high < low || low = 0 || 3 < high then d.wr pg 0x158 4 1
  else if d.takeState p != stIdle then d.wr pg 0x158 5 1
  else
    let d := d.wr pg 0x158 5 0
    match ifaceLevel low high (d.rd pg 0x158 8) (d.rd pg 0x158 12) with
    | some l => (d.wr pg 0x158 0 l).wr pg 0x158 4 0
    | none => d.wr pg 0x158 4 1

/-! ### Link and power events of a port -/

/-- PCIE_LINK_UP: training ends and the data link is up (R320). -/
def doPcieLinkUp (p : Port) (rate width : Nat) (flit ecrc : Bool) (bar2 : Nat) (d : Dev) : Dev :=
  let pg := hpPage p
  if (d.port p).perst || !d.powered || 5 < rate || width = 0 || 16 < width || bar2 < 30 || 36 < bar2 then d
  else
    let d := ((d.wr pg 0x104 0 1).wr pg 0x104 1 rate).wr pg 0x104 4 width
    let d := ((d.wrBool pg 0x104 9 ecrc).wrBool pg 0x104 10 flit).wr pg 0x104 13 bar2
    d.setPeer p 0

/-- PERST_RELEASE: training starts and configuration space will answer (R333). -/
def doPerstRelease (p : Port) (d : Dev) : Dev :=
  d.setPort p { d.port p with perst := false, cfg := true }

/-- POWER_STATE_CHANGE: D0 or D3hot (R321). -/
def doPowerStateChange (p : Port) (d3 : Bool) (d : Dev) : Dev := d.setPort p { d.port p with d3 := d3 }

/-- HOST_COMPLETION at a port: payload received is counted; a completion that fails ECRC is discarded (status 4). -/
def doCompletion (n i status : Nat) (bs : List Byte) (d : Dev) : Dev :=
  match d.pumpPort n with
  | none => d
  | some p =>
    if status = 4 then
      if d.rdBool (hpPage p) 0x104 9 then (d.bump (hpPage p) 0x068 1).logErr (hpPage p) 0x22 0 else d
    else doHostCompletion n i status bs (d.bump (hpPage p) 0x040 bs.length)

end Sys2Proof.Machine
end

