-- ==== Sys2Proof/Machine/Bus.lean ====
section
/-!
DEFINITION. BAR0: reads and writes of registers by the hosts and the sideband (R12, R13, R82, R323, R422, R432 to
R446), with every register that acts beyond holding a value; and BAR4 (R326).
-/

namespace Sys2Proof.Machine

/-! ### Reads -/

/-- The value of a 32-bit register as it stands. -/
def Dev.regValue (d : Dev) (pg : Page) (o : Nat) : Nat :=
  let w := d.word pg o
  match pg, o with
  | .sluice, 0x130 => d.blkData (pageById (d.rd .sluice 0x12C 0) (d.rd .sluice 0x12C 16))
  | .hp p, 0x108 => d.winBase (Port.ofIdx p) % 2 ^ 32
  | .hp p, 0x10C => d.winBase (Port.ofIdx p) / 2 ^ 32
  | .well k, 0x10 => w % 256 + (if d.owner (.pump (k / 2048)) = 1 then 256 else 0)
  | _, 0x014 => if pg.hasHeader then w % 16 + (if d.errStatus pg = 0 then 0 else 16) else w
  | _, _ => w

/-- What a read does to a register: the low word of a 64-bit counter latches the high word (R82); RC fields clear
(R12); ME_DBG_DATA_LO samples the accumulator (R163). -/
def Dev.readEffect (d : Dev) (pg : Page) (o : Nat) : Dev :=
  (fieldsAt pg o).foldl (fun d f =>
    if f.width = 64 then d.wr pg (o + 4) 0 (d.rd pg o f.lo / 2 ^ 32)
    else if f.acc == .rc then d.wr pg o f.lo 0
    else d) d

/-- Read a 32-bit register of a page that is there. -/
def Dev.readReg (d : Dev) (pg : Page) (o : Nat) : Nat × Dev :=
  match pg, o with
  | .me q, 0x128 =>
    let d := doDebugRead q d
    (match d.resp with
      | .data v => (v, { d with resp := .none })
      | _ => (0, d))
  | _, _ => (d.regValue pg o, d.readEffect pg o)

/-- A page of BAR0 below 0x001_1000 (R441). -/
def Page.isGlobal (pg : Page) : Bool := decide (pg.base < 0x11000)

/-- Is a page one of the other partition, or of none, for a port (R323)? -/
def Dev.foreign (d : Dev) (p : Port) (pg : Page) : Bool :=
  pg.hasHeader && !pg.isGlobal && d.owner pg != p.idx && d.owner pg != 2

/-- Is the body of a page withheld: a retired block, or a site bad from the factory (R439)? -/
def Dev.gone (d : Dev) (pg : Page) (o : Nat) : Bool :=
  pg.hasHeader && 0x040 ≤ o && !d.rdBool pg 0x014 0

/-- One 32-bit read. -/
def Dev.read32 (d : Dev) (w : Writer) (a : Nat) : Nat × Dev :=
  match pageOf a with
  | none => (0, d)
  | some (pg, o) =>
    let foreign := match w with
      | .host p => d.foreign p pg && decide (0x010 ≤ o)
      | .sideband => false
    if foreign then
      (match w with
        | .host p => (ones32, d.hostRefuse p 0 a false 0x21 (a / 4))
        | .sideband => (0, d))
    else if d.gone pg o then (ones32, d)
    else d.readReg pg o

/-- Naturally aligned, 32 or 64 bits, within the 64 MiB (R439). -/
def bar0Ok (a n : Nat) : Bool := (n == 4 || n == 8) && a % n == 0 && decide (a + n ≤ 2 ^ 26)

/-- A host's read of `n` bytes at BAR0 offset `a`: a 64-bit one reads the lower word first. -/
def Dev.busRead (d : Dev) (p : Port) (a n : Nat) : Dev :=
  if 2 ^ 26 < a + n then d
  else if !bar0Ok a n then d.completerAbort p
  else d.hostAccess p 0 a n false fun d =>
      let lo := d.read32 (.host p) a
      if n = 4 then { lo.2 with resp := .data lo.1 }
      else
        let hi := lo.2.read32 (.host p) (a + 4)
        { hi.2 with resp := .data (lo.1 + hi.1 * 2 ^ 32) }

/-! ### Who may write -/

/-- What stands against a register write: nothing; a refusal that the port logs; a code that a page logs; the
sideband's DENIED. -/
inductive Gate where
  | pass
  | refused (p : Port) (code detail : Nat)
  | logged (pg : Page) (code detail : Nat)
  | denied
  deriving DecidableEq, Repr

/-- Do all four links of a cage belong to port B (R430)? -/
def Dev.cageIsB (d : Dev) (k : Nat) : Bool := (cageLinks k).all fun i => d.owner (.link i) == 1

/-- May the sideband write a register (R422, R430, R436)? -/
def sidebandMay (pg : Page) (o : Nat) : Bool :=
  match pg with
  | .sluice => o == 0x110 || o == 0x118 || o == 0x128
  | .part | .fw | .cage _ => decide (0x040 ≤ o)
  | .route _ => true
  | .modPage => o == 0x100
  | _ => false

/-- The writer rules of R289, R318, R323, R415, R430, R436 and R441 for a host. -/
def Dev.hostGate (d : Dev) (p : Port) (a : Nat) (pg : Page) (o : Nat) : Gate :=
  let other := Gate.refused p 0x21 (a / 4)
  let only (b : Bool) (g : Gate) : Gate := if b then .pass else g
  let own := d.owner pg
  if pg.hasHeader && o < 0x040 then only (own == 2 || own == p.idx) other
  else match pg with
    | .cc | .ident | .fw | .route _ => only (p == .a) other
    | .part => only (p == .a) (.refused p 0x24 o)
    | .well k => only (d.owner (.pump (k / 2048)) == p.idx) (.logged .wellHdr 0x25 ((a - 0x1000000) / 16))
    | .cring i => only (i / 2048 == p.idx) (.logged .wellHdr 0x25 ((a - 0x1000000) / 16))
    | .sem s => only (d.semPart s == p.idx) (.logged .wellHdr 0x25 ((a - 0x1000000) / 16))
    | .cage k => only (p == .a || d.cageIsB k) (.logged pg 0x24 o)
    | .modPage =>
      only (if o = 0x114 then p == .b else p == .a) (.logged pg 0x24 o)
    | _ => only (own == 2 || own == p.idx) other

def Dev.gate (d : Dev) (w : Writer) (a : Nat) (pg : Page) (o : Nat) : Gate :=
  match w with
  | .host p => d.hostGate p a pg o
  | .sideband => if sidebandMay pg o then .pass else .denied

/-- Offsets that are closed to hosts while a block is a member of a running take, and the page that logs the write
(R82, R152, R185, R217, R242, R264, R315, R317, R436). -/
def Dev.takeLocked (d : Dev) (pg : Page) (o : Nat) : Option (Page × Nat) :=
  let within (lo hi : Nat) : Bool := decide (lo ≤ o ∧ o < hi)
  let inj := o == 0x024
  let shut (b : Bool) : Option (Page × Nat) := if d.inTake pg && b then some (pg, o) else none
  match pg with
  | .tile _ => shut (inj || within 0x100 0x800)
  | .me _ | .ve _ | .router _ _ => shut (inj || within 0x100 0x200)
  | .vc _ => shut (inj || within 0x100 0x400)
  | .slot c r => if d.inTake pg && (inj || 0x100 ≤ o) then some (.router c r, 0x1000 + o) else none
  | .link _ => shut (inj || within 0x100 0x200 || within 0x800 0x1000)
  | .gw _ => shut (inj || 0x100 ≤ o)
  | .clap => if (d.running .a || d.running .b) && (inj || within 0x100 0x200) then some (pg, o) else none
  | _ => none

/-! ### What writes do -/

/-- Clear a page's counters; the host port keeps its reset count, an arbiter clears its starve counters too. -/
def Dev.cntClear (d : Dev) (pg : Page) : Dev :=
  match pg with
  | .hp _ =>
    { d with regs := d.regs.resetWhere fun k =>
        decide (32 * (pg.base + 0x40) ≤ k ∧ k < 32 * (pg.base + 0x70)) }
  | .arb _ =>
    let d := d.clearCounters pg
    { d with regs := d.regs.resetWhere fun k =>
        decide (32 * (pg.base + 0x400) ≤ k ∧ k < 32 * (pg.base + 0x600)) }
  | _ => d.clearCounters pg

/-- A register with no behaviour of its own: RW fields take the value, W1C fields lose the bits written 1, and
`cnt_clear` clears the page's counters (R12). -/
def Dev.plainWrite (d : Dev) (pg : Page) (o w : Nat) : Dev :=
  (fieldsAt pg o).foldl (fun d f =>
    let v := bits w f.lo f.width
    match f.acc with
    | .rw => d.wr pg o f.lo v
    | .w1c => d.wr pg o f.lo (d.rd pg o f.lo - (d.rd pg o f.lo &&& v))
    | .w1s => d.wr pg o f.lo (d.rd pg o f.lo ||| v)
    | .wo => if f.clr && v == 1 then d.cntClear pg else d
    | _ => d) d

/-- BLK_CTRL (R432, R433). -/
def Dev.blkCtrlWrite (d : Dev) (pg : Page) (w : Nat) : Dev :=
  let d := if bit w 0 then
      (forN 5 (fun i d => d.wr pg 0x018 i 0) d).clearErrFirst pg
    else d
  if bit w 1 then (d.wr pg 0x028 0 0).wr pg 0x02C 0 0 else d

/-- ERR_STATUS: a write that leaves every bit zero clears ERR_FIRST (R433). -/
def Dev.errStatusWrite (d : Dev) (pg : Page) (w : Nat) : Dev :=
  let d := d.plainWrite pg 0x018 w
  if d.errStatus pg = 0 then d.clearErrFirst pg else d

/-- ERR_INJECT (R435): ignored where the block has no check to exercise. -/
def Dev.injectWrite (d : Dev) (pg : Page) (w : Nat) : Dev :=
  if pg.canInject then (d.wr pg 0x024 0 (bits w 0 2)).wr pg 0x024 2 0 else d

/-- DEV_ID (R443). -/
def Dev.devIdWrite (d : Dev) (w : Nat) : Dev :=
  if d.takeState .a != stIdle || d.takeState .b != stIdle then d.logErr .ident 0x20 0
  else
    let same := d.rd .ident 0x10C 0 = bits w 0 10 && d.rd .ident 0x10C 16 = bits w 16 1
    let d := (d.wr .ident 0x10C 0 (bits w 0 10)).wr .ident 0x10C 16 (bits w 16 1)
    if same then d
    else forN 64 (fun i d => if d.linkState i = 0 || d.linkState i = 6 then d else d.startTraining i) d

/-- GEN_CTRL (R129): a `go` while an evaluation runs is ignored; a `go` that names what cannot be evaluated sets
`bad`. A reserved function or table is not stored (R13). -/
def Dev.genWrite (d : Dev) (p w : Nat) : Dev :=
  let pg := Page.gen p
  if bit w 0 && d.rdBool pg 0x12C 0 then d
  else if wordReserved pg 0x11C w then (if bit w 0 then d.wr pg 0x12C 1 1 else d)
  else
    let d := d.putFields pg 0x11C w fun f => f.acc == .rw
    if !bit w 0 then d
    else
      let e := probeEval (d.rd pg 0x100 0 + d.rd pg 0x104 0 * 2 ^ 32) (d.rd pg 0x10C 0) (d.rd pg 0x108 0)
        (d.rd pg 0x110 0 + d.rd pg 0x114 0 * 2 ^ 32) (d.rd pg 0x10C 16) (d.rd pg 0x118 0) (d.rd pg 0x11C 1)
        (d.rd pg 0x11C 4) (d.rd pg 0x11C 5)
      match e with
      | none => d.wr pg 0x12C 1 1
      | some (x, r) => { d.wr pg 0x12C 0 1 with ctl := { d.ctl with gen := tput d.ctl.gen p (x.toNat, r) } }

/-- GEN_EVAL_DONE: x and the result stand in the page. -/
def doGenEvalDone (p : Port) (d : Dev) : Dev :=
  let pg := Page.gen p.idx
  match findKey p.idx d.ctl.gen with
  | none => d
  | some (x, r) =>
    let d := (d.wr64 pg 0x120 x).wr pg 0x128 0 (r % 2 ^ 32)
    { d.wr pg 0x12C 0 0 with ctl := { d.ctl with gen := tdel d.ctl.gen p.idx } }

/-- REEL_CTRL (R351): a command while one runs is ignored. -/
def Dev.reelWrite (d : Dev) (p : Port) (w : Nat) (fails : Option Nat) : Dev :=
  let pg := Page.reel p.idx
  let cmd := bits w 0 4
  let busy := d.rdBool pg 0x104 0
  let d := if cmd != 0 && busy then d else d.plainWrite pg 0x100 w
  match cmd with
  | 1 => d.reelDoVerify p
  | 2 => d.reelRestore p fails
  | 3 => d.reelKeygen p
  | 4 => d.reelKeyload p
  | 5 => d.reelKeyclear p
  | _ => d

/-- Mailbox words: a write of the last one posts the command (R444). -/
def Dev.mailWrite (d : Dev) (p : Port) (o w : Nat) : Dev :=
  let pg := mboxPage p
  let d := d.wr pg o 0 w
  if o = 0x11C then
    d.mbPost p ((List.range 8).map fun i => d.rd pg (0x100 + 4 * i) 0 * 2 ^ (32 * i)).sum
  else d

/-- A write of a word that no reserved code makes void. -/
def Dev.writeReg (d : Dev) (w : Writer) (pg : Page) (o v : Nat) : Dev :=
  let plain := d.plainWrite pg o v
  let p := match w with | .host p => p | .sideband => .a
  if pg.hasHeader && o < 0x040 then
    (match o with
      | 0x010 => d.blkCtrlWrite pg v
      | 0x018 => d.errStatusWrite pg v
      | 0x024 => d.injectWrite pg v
      | _ => plain)
  else match pg with
    | .ident => if o = 0x10C then d.devIdWrite v else plain
    | .mbox k =>
      if 0x100 ≤ o && o < 0x120 then d.mailWrite (Port.ofIdx k) o v
      else if o = 0x154 then d.ifaceWrite (Port.ofIdx k) v
      else plain
    | .part => if o = 0x1C0 then d.partCommand (bits v 0 2) else plain
    | .sluice =>
      if o = 0x108 || o = 0x10C || o = 0x110 || o = 0x118 || o = 0x128 then d.sluiceWrite w o v else plain
    | .entCell =>
      if o = 0x108 || o = 0x10C then d.patternWrite o v
      else if o = 0x100 then (if bit v 1 then plain.wr pg 0x104 10 1 else plain)
      else plain
    | .entPort k =>
      if o < 0x200 then plain
      else
        let i := (o - 0x200) / 32
        (match o % 32 with
          | 0x08 => d.entCfgWrite (Port.ofIdx k) i v
          | 0x0C => d.entTailWrite (Port.ofIdx k) i v
          | _ => plain)
    | .gen k => if o = 0x11C then d.genWrite k v else plain
    | .reel k =>
      if o = 0x100 then d.reelWrite (Port.ofIdx k) v none
      else if 0x120 ≤ o && o < 0x140 then d.wr pg o 0 v
      else plain
    | .rep k => if o = 0x100 then d.repCommand (Port.ofIdx k) (bits v 0 4) else plain
    | .fw => if o = 0x100 then d.fwCommand (bits v 0 4) else plain
    | .vc c =>
      if 0x1000 ≤ o then
        let b := (o - 0x1000) / 16
        (match o % 16 with
          | 0 => d.bankOwnerWrite p c b v
          | 8 => d.bankPowerWrite c b v
          | _ => plain)
      else if 0x200 ≤ o && o < 0x400 && o % 16 = 0 then
        (if bit v 1 then d.vaultClearWrite (32 * c + (o - 0x200) / 16) else d)
      else plain
    | .pump n => if o = 0x108 then plain.faultFollow n else plain
    | .well k => if o = 0x08 then d.wellCfgWrite k v else if o = 0x14 then d.wellCtrlWrite k v else plain
    | .cring i => if o = 0x08 then d.cringCfgWrite i v else if o = 0x0C then d.cringHeadWrite i v else plain
    | .link i => if o = 0x100 then plain.linkEnable i else if o = 0x200 then d.linkCmd i v else plain
    | .cage k => if o = 0x100 && bit v 1 then plain.cageDrain k else plain
    | _ => plain

/-- Registers whose own rule answers a reserved code (R13): the sluice's requests and cap, the supply setpoint, the
probe's commands, and BANK_OWNER (R219). -/
def codeHasOutcome (pg : Page) (o : Nat) : Bool :=
  match pg with
  | .sluice => o != 0x12C
  | .gen _ => o == 0x11C
  | .vc _ => decide (0x1000 ≤ o) && o % 16 == 0
  | _ => false

/-- One 32-bit write of a host or the sideband. -/
def Dev.write32 (d : Dev) (w : Writer) (a v : Nat) : Dev :=
  match pageOf a with
  | none => if w = .sideband then { d with resp := .denied } else d
  | some (pg, o) =>
    match d.gate w a pg o with
    | .refused p code detail => d.hostRefuse p 0 a true code detail
    | .logged q code detail =>
      d.logErr q code detail
    | .denied => { d with resp := .denied }
    | .pass =>
      if d.gone pg o then d
      else match (if w = .sideband then none else d.takeLocked pg o) with
        | some (q, detail) => d.logErr q 0x30 detail
        | none =>
          if (fieldsAt pg o).isEmpty then d
          else if wordReserved pg o v && !codeHasOutcome pg o then d else d.writeReg w pg o v

/-- A host's write of `n` bytes at BAR0 offset `a`. -/
def Dev.busWrite (d : Dev) (p : Port) (a n v : Nat) : Dev :=
  if 2 ^ 26 < a + n then d
  else if !bar0Ok a n then d.completerAbort p
  else d.hostAccess p 0 a n true fun d =>
      let d := d.write32 (.host p) a (v % 2 ^ 32)
      let d := if n = 8 then d.write32 (.host p) (a + 4) (v / 2 ^ 32 % 2 ^ 32) else d
      { d with resp := .ok }

/-- Once stage 3 of power-up has started the sideband reaches registers (R420). -/
def Dev.sideWrite (d : Dev) (a v : Nat) : Dev :=
  if d.powered then ({ d with resp := .ok }).write32 .sideband a v else { d with resp := .notReady }

/-- A 32-bit register write by either writer. -/
def Dev.regWrite (d : Dev) (w : Writer) (a v : Nat) : Dev :=
  match w with
  | .host p => d.busWrite p a 4 v
  | .sideband => d.sideWrite a v

/-! ### BAR4 (R326) -/

/-- Word `i` of the PBA: bit v pending. -/
def PortSt.pbaWord (s : PortSt) (i : Nat) : Nat :=
  ((s.pba.filter fun v => v / 32 == i).map fun v => 2 ^ (v % 32)).sum

/-- The 32-bit word of BAR4 at offset 4i: the MSI-X table, the PBA; a doorbell and a reserved offset read as zero. -/
def PortSt.bar4Word (s : PortSt) (i : Nat) : Nat :=
  if 0x20000 ≤ i && i < 0x22000 then s.msixWord (i - 0x20000)
  else if 0x22000 ≤ i && i < 0x22040 then s.pbaWord (i - 0x22000)
  else 0

/-- A host's read of `n` bytes at BAR4 offset `a`. -/
def Dev.bar4Read (d : Dev) (p : Port) (a n : Nat) : Dev :=
  d.hostAccess p 2 a n false fun d =>
    let w (i : Nat) : Nat := (d.port p).bar4Word (a / 4 + i) * 2 ^ (32 * i)
    { d with resp := .data (bits (w 0 + w 1 + w 2) (8 * (a % 4)) (8 * n)) }

/-- A host's write of `n` bytes at BAR4 offset `a`: a doorbell as one 8-byte write (R269), words of the MSI-X table;
the PBA is read-only. -/
def Dev.bar4Write (d : Dev) (p : Port) (a n v : Nat) : Dev :=
  d.hostAccess p 2 a n true fun d =>
    let aligned := (n == 4 || n == 8) && a % n == 0
    let d :=
      if a < 0x80000 then if aligned && n == 8 then doDoorbell p (a / 8) v d else d
      else if aligned && a < 0x88000 then
        let i := (a - 0x80000) / 4
        let d := d.msixWrite p i (v % 2 ^ 32)
        if n = 8 then d.msixWrite p (i + 1) (v / 2 ^ 32 % 2 ^ 32) else d
      else d
    { d with resp := .ok }

/-- A doorbell of a host: 8 bytes at BAR4 offset 8w (R269). -/
def doHostDoorbell (p : Port) (w value : Nat) (d : Dev) : Dev :=
  if 65536 ≤ w then d else d.bar4Write p (8 * w) 8 value

end Sys2Proof.Machine
end

