-- ==== Sys2Proof/Machine/Sideband.lean ====
section
/-!
DEFINITION. The sideband (R420 to R423): register messages, PLDM sensors and firmware update, the debug UART; and the
register writes and reads that are commands of their own.
-/

namespace Sys2Proof.Machine

/-! ### Register messages (R422) -/

/-- REG_READ: `count` words from BAR0 offset `a`, the first in the low bits. -/
def Dev.sideRead : Nat → Nat → Dev → Nat × Dev
  | 0, _, d => (0, d)
  | n + 1, a, d =>
    let x := d.read32 .sideband a
    let y := x.2.sideRead n (a + 4)
    (x.1 + 2 ^ 32 * y.1, y.2)

/-- A request the sideband can serve: powered, 1 to 16 aligned words within BAR0. -/
def Dev.sideOk (d : Dev) (a n : Nat) : Bool :=
  d.powered && decide (1 ≤ n ∧ n ≤ 16) && a % 4 == 0 && decide (a + 4 * n ≤ 2 ^ 26)

/-- The status of a request it cannot serve: not ready before stage 3 of power-up has started (R420). -/
def Dev.sideNo (d : Dev) : Resp := if d.powered then .unsupported else .notReady

/-- REG_READ; a request that cannot be served completes without words. -/
def doRegRead (a n : Nat) (d : Dev) : Dev :=
  if d.sideOk a n then
    let x := Dev.sideRead n a d
    { x.2 with resp := .data x.1 }
  else { d with resp := d.sideNo }

/-- REG_WRITE: every word or none; DENIED if any register is not the sideband's to write. -/
def doRegWrite (a : Nat) (ws : List Nat) (d : Dev) : Dev :=
  if d.sideOk a ws.length then
    let may (i : Nat) : Bool := match pageOf (a + 4 * i) with
      | some (pg, o) => sidebandMay pg o
      | none => false
    if (List.range ws.length).all may then
      { ws.zipIdx.foldl (fun d (x : Nat × Nat) => d.write32 .sideband (a + 4 * x.2) (x.1 % 2 ^ 32)) d with resp := .ok }
    else { d with resp := .denied }
  else { d with resp := d.sideNo }

/-- RESET: a whole-device reset follows (R403). -/
def doSidebandReset (u : PowerUp) (d : Dev) : Dev := { d.wholeReset u with resp := .ok }

/-! ### PLDM (R409, R421) -/

/-- What a sensor reads; the input and coolant sensors show what they sense, and the module page with them. -/
def Dev.sense (d : Dev) (sensor sensed : Nat) : Dev :=
  match sensor with
  | 3 => d.wr .modPage 0x104 0 (sensed % 2 ^ 16)
  | 4 => d.wr .modPage 0x104 16 (sensed % 2 ^ 16)
  | 5 => d.wr .modPage 0x108 0 (sensed % 2 ^ 8)
  | 6 => d.wr .modPage 0x108 8 (sensed % 2 ^ 8)
  | _ => d

/-- The value of a sensor in its unit: °C, W, 0.1 V, 0.1 A. Device state: the stage, `ready` times 16, a thermal trip
times 32. Fault: `seq` of the newest entry of either port. -/
def Dev.sensor (d : Dev) (sensor : Nat) : Nat :=
  match sensor with
  | 1 => d.rd .sluice 0x120 0
  | 2 => d.rd .sluice 0x124 0 / 4
  | 3 => d.rd .modPage 0x104 0 / 10
  | 4 => d.rd .modPage 0x104 16 / 10
  | 5 => d.rd .modPage 0x108 0
  | 6 => d.rd .modPage 0x108 8
  | 7 => d.rd .modPage 0x10C 0 / 4
  | 8 => d.rd .ident 0x100 1 + 16 * d.rd .ident 0x100 0 + 32 * d.pwr.trip.toNat
  | _ => max d.ctl.seqA d.ctl.seqB

/-- PLDM_SENSOR_READ: `sensed` is what sensors 3 to 6 sense, in units of 10 mV, 10 mA and °C. The value of the fault
sensor reflects every entry written, so its read releases ALERT_N. -/
def doSensorRead (sensor sensed : Nat) (d : Dev) : Dev :=
  if sensor = 0 || 9 < sensor then { d with resp := .unsupported }
  else
    let d := d.sense sensor sensed
    let v := d.sensor sensor
    let d := if sensor = 9 && d.pwr.alert then
        ({ d with pwr := { d.pwr with alert := false } }).emit (.pin "ALERT_N" true)
      else d
    { d.emit (.pldm sensor v) with resp := .data v }

/-- PLDM_FIRMWARE_UPDATE: the commands of FW_CTRL, the image of a WRITE in the message. -/
def doPldmFw (x : PldmFw) (d : Dev) : Dev :=
  if !d.powered then { d with resp := .notReady }
  else
    let d := match x with
      | .write image =>
        if d.rdBool .fw 0x104 0 || d.rdBool .fw 0x104 1 then d.fwResult 0x73
        else if 2 ^ 24 < image.length then d.fwResult 0x74
        else { d.wr .fw 0x104 0 1 with ctl := { d.ctl with fwJob := 1, fwImage := some image } }
      | .verify => d.fwCommand 2
      | .activate => d.fwCommand 3
      | .cancel => d.fwCommand 4
    { d with resp := .ok }

/-- DEBUG_UART_INPUT: a byte is accepted in the factory state only (R423). -/
def doUartInput (b : Nat) (d : Dev) : Dev :=
  if d.rdBool .entCell 0x104 9 then { d with pwr := { d.pwr with uartIn := d.pwr.uartIn ++ [b % 256] } } else d

/-! ### Reads that are commands -/

/-- A read of a register of BAR0 or BAR4 by a host, of 4 or 8 bytes, or of BAR0 by the sideband. -/
def doRegisterRead (w : Writer) (bar4 : Bool) (a n : Nat) (d : Dev) : Dev :=
  match w with
  | .host p => if bar4 then d.bar4Read p a n else d.busRead p a n
  | .sideband => if bar4 then { d with resp := .unsupported } else doRegRead a (n / 4) d

/-- READ_CLEAR: the read of a register with RC fields. -/
def doReadClear (w : Writer) (a n : Nat) (d : Dev) : Dev := doRegisterRead w false a n d

/-- A 32-bit read of a register at a page offset. -/
def hostRead (w : Writer) (pg : Page) (o : Nat) (d : Dev) : Dev := doRegisterRead w false (pg.base + o) 4 d

/-- DEBUG_READ: ME_DBG_DATA_LO of engine q (R163). -/
def hostDebugRead (w : Writer) (q : Nat) (d : Dev) : Dev := if q < 4 then hostRead w (.me q) 0x128 d else d

/-- TRNG_RAW_READ: TRNG_RAW of a port's page (R394). -/
def hostRawRead (w : Writer) (p : Port) (d : Dev) : Dev := hostRead w (.entPort p.idx) 0x104 d

/-! ### Writes that are commands -/

/-- A write of a register of BAR0 or BAR4 by a host, of 4 or 8 bytes, or of BAR0 by the sideband, of 4. -/
def doRegisterWrite (w : Writer) (bar4 : Bool) (a n v : Nat) (d : Dev) : Dev :=
  match w with
  | .host p => if bar4 then d.bar4Write p a n v else d.busWrite p a n v
  | .sideband => if !bar4 && n = 4 && a % 4 = 0 then d.sideWrite a (v % 2 ^ 32) else { d with resp := .unsupported }

/-- A 32-bit write of a register at a page offset. -/
def hostWrite (w : Writer) (pg : Page) (o v : Nat) (d : Dev) : Dev := d.regWrite w (pg.base + o) (v % 2 ^ 32)

/-- The page of a block type and instance, if there is one. -/
def onBlock (ty inst : Nat) (f : Page → Dev → Dev) (d : Dev) : Dev :=
  match pageById ty inst with
  | some pg => f pg d
  | none => d

/-- A write of a header register (R436). -/
def hostHeader (w : Writer) (ty inst o v : Nat) (d : Dev) : Dev := onBlock ty inst (fun pg => hostWrite w pg o v) d

/-- Where a page has `cnt_clear`: the register and the word that sets the bit and leaves every RW field as it is. -/
def Dev.cntClearAt (d : Dev) (pg : Page) : Option (Nat × Nat) :=
  let at_ (o : Nat) : Option (Nat × Nat) :=
    ((fieldsAt pg o).find? (·.clr)).map fun f =>
      (o, ((fieldsAt pg o).map fun g => if g.acc == .rw then d.rd pg o g.lo * 2 ^ g.lo else 0).sum + 2 ^ f.lo)
  match at_ 0x100 with
  | some x => some x
  | none => at_ 0x124

/-- CNT_CLEAR of a block's page. -/
def hostCntClear (w : Writer) (ty inst : Nat) (d : Dev) : Dev :=
  onBlock ty inst (fun pg d => match d.cntClearAt pg with
    | some x => hostWrite w pg x.1 x.2 d
    | none => d) d

/-- A mailbox command of a host: its eight words, the last of which posts it (R444). -/
def hostMail (p : Port) (cmd m : Nat) (d : Dev) : Dev :=
  let m := putBits m 0 8 cmd
  forN 8 (fun i d => hostWrite (.host p) (mboxPage p) (0x100 + 4 * i) (bits m (32 * i) 32) d) d

/-- BANK_OWNER of a bank (R219). -/
def hostBankOwner (w : Writer) (c b v : Nat) (d : Dev) : Dev :=
  if c < 16 && b < banksOf c then hostWrite w (.vc c) (0x1000 + 16 * b) v d else d

/-- BANK_POWER of a bank (R224). -/
def hostBankPower (w : Writer) (c b req : Nat) (d : Dev) : Dev :=
  if c < 16 && b < banksOf c then hostWrite w (.vc c) (0x1008 + 16 * b) (req % 4) d else d

/-- VAULT_CTRL.clear (R238). -/
def hostVaultClear (w : Writer) (v : Nat) (d : Dev) : Dev :=
  if v < 512 then hostWrite w (vaultPage v) (0x200 + 16 * (v % 32)) 2 d else d

/-- WELL_CTRL of a well: 1 stop, 2 resume, 4 skip (R285, R286). -/
def hostWellCtrl (w : Writer) (k v : Nat) (d : Dev) : Dev := if k < 65536 then hostWrite w (.well k) 0x14 v d else d

/-- WELL_CFG of a well. -/
def hostWellCfg (w : Writer) (k v : Nat) (d : Dev) : Dev := if k < 65536 then hostWrite w (.well k) 0x08 v d else d

/-- CRING_CFG of a completion ring. -/
def hostCringCfg (w : Writer) (i v : Nat) (d : Dev) : Dev := if i < 4096 then hostWrite w (.cring i) 0x08 v d else d

/-- CRING_PTR.head of a completion ring. -/
def hostCringHead (w : Writer) (i head : Nat) (d : Dev) : Dev :=
  if i < 4096 then hostWrite w (.cring i) 0x0C (head % 2 ^ 16 * 2 ^ 16) d else d

/-- GEN_CTRL of a probe page, with `go` (R129). -/
def hostGenGo (w : Writer) (p : Port) (ctrl : Nat) (d : Dev) : Dev :=
  hostWrite w (.gen p.idx) 0x11C (putBits ctrl 0 1 1) d

/-- REEL_CTRL.cmd, `seal` as it stands. `fails`: the reel record at which a RESTORE meets lost data (R349). -/
def hostReel (p : Port) (cmd : Nat) (fails : Option Nat) (d : Dev) : Dev :=
  match cmd, fails with
  | 2, some i =>
    d.hostAccess p 0 ((Page.reel p.idx).base + 0x100) 4 true fun d =>
      { d.reelWrite p (2 + 16 * d.rd (.reel p.idx) 0x100 4) (some i) with resp := .ok }
  | _, _ => hostWrite (.host p) (.reel p.idx) 0x100 (cmd + 16 * d.rd (.reel p.idx) 0x100 4) d

/-- REP_CTRL.cmd of a port's repair page (R363, R364). -/
def hostRepair (w : Writer) (p : Port) (cmd : Nat) (d : Dev) : Dev := hostWrite w (.rep p.idx) 0x100 cmd d

/-- PART_CMD (R448). -/
def hostPlan (w : Writer) (cmd : Nat) (d : Dev) : Dev := hostWrite w .part 0x1C0 cmd d

/-- HOST_IFACE_REQ (R446). -/
def hostIface (w : Writer) (p : Port) (low high : Nat) (d : Dev) : Dev :=
  hostWrite w (mboxPage p) 0x154 (low % 16 + 16 * (high % 16)) d

/-- DEV_ID (R443). -/
def hostDevId (w : Writer) (v : Nat) (d : Dev) : Dev := hostWrite w .ident 0x10C v d

/-- SLU_REQ_A, SLU_REQ_B or SLU_CAP: register 0, 1 or 2 (R370). -/
def hostBudget (w : Writer) (reg v : Nat) (d : Dev) : Dev := if reg < 3 then hostWrite w .sluice (0x108 + 4 * reg) v d else d

/-- SLU_SHARE (R372). -/
def hostShare (w : Writer) (v : Nat) (d : Dev) : Dev := hostWrite w .sluice 0x118 v d

/-- SLU_VCORE (R366). -/
def hostVcore (w : Writer) (mv : Nat) (d : Dev) : Dev := hostWrite w .sluice 0x128 mv d

/-- ENT_RING_CFG of ring i of a port's page (R394). -/
def hostRingCfg (w : Writer) (p : Port) (i v : Nat) (d : Dev) : Dev :=
  if i < 32 then hostWrite w (.entPort p.idx) (0x208 + 32 * i) v d else d

/-- ENT_RING_PTR.tail (R390). -/
def hostRingTail (w : Writer) (p : Port) (i tail : Nat) (d : Dev) : Dev :=
  if i < 32 then hostWrite w (.entPort p.idx) (0x20C + 32 * i) (tail % 2 ^ 16 * 2 ^ 16) d else d

/-- FW_CTRL.cmd (R415). -/
def hostFirmware (w : Writer) (cmd : Nat) (d : Dev) : Dev := hostWrite w .fw 0x100 cmd d

/-- LINK_CMD: 1 retrain, 2 recal, 4 drain, 8 undrain (R315). -/
def hostLinkCmd (w : Writer) (i v : Nat) (d : Dev) : Dev := if i < 64 then hostWrite w (.link i) 0x200 v d else d

/-! ### WAIT_CONDITION_MET -/

def doWaitConditionMet (x : Waiter) (d : Dev) : Dev :=
  match x with
  | .member p k => wakeWaitSem p k d
  | .engine n beats => d.waitMet n beats

end Sys2Proof.Machine
end

