-- ==== Sys2Proof/Machine/CmdControl.lean ====
section
/-!
DEFINITION. The meanings of the commands of repair, partition plans, firmware, reset and power (chapters 14, 16, 19 and 21).
-/

namespace Sys2Proof.Machine

/-- BIST (R363). -/
def execBist (w : Writer) (p : Port) (s : State) : Host.Outcome State Fault Refusal :=
  s.act (hostRepair w p 1)

/-- RELOAD (R364). -/
def execReload (w : Writer) (p : Port) (s : State) : Host.Outcome State Fault Refusal :=
  s.act (hostRepair w p 2)

/-- SUBSTITUTION (R358). -/
def execSubstitution (s : State) : Host.Outcome State Fault Refusal :=
  s.act doSubstitution

/-- APPLY (R448). -/
def execApply (w : Writer) (s : State) : Host.Outcome State Fault Refusal :=
  s.act (hostPlan w 1)

/-- COPY (R448). -/
def execCopy (w : Writer) (s : State) : Host.Outcome State Fault Refusal :=
  s.act (hostPlan w 2)

/-- PLAN_APPLIED (R329). -/
def execPlanApplied (s : State) : Host.Outcome State Fault Refusal :=
  s.act doPlanApplied

/-- HOST_IFACE_REQ (R446). -/
def execHostIfaceReq (w : Writer) (p : Port) (low high : Nat) (s : State) : Host.Outcome State Fault Refusal :=
  s.act (hostIface w p low high)

/-- DEV_ID_WRITE (R443). -/
def execDevIdWrite (w : Writer) (v : Nat) (s : State) : Host.Outcome State Fault Refusal :=
  s.act (hostDevId w v)

/-- FW_WRITE (R409). -/
def execFwWrite (w : Writer) (s : State) : Host.Outcome State Fault Refusal :=
  s.act (hostFirmware w 1)

/-- FW_VERIFY (R409). -/
def execFwVerify (w : Writer) (s : State) : Host.Outcome State Fault Refusal :=
  s.act (hostFirmware w 2)

/-- ACTIVATE (R410). -/
def execActivate (w : Writer) (s : State) : Host.Outcome State Fault Refusal :=
  s.act (hostFirmware w 3)

/-- CANCEL (R410). -/
def execCancel (w : Writer) (s : State) : Host.Outcome State Fault Refusal :=
  s.act (hostFirmware w 4)

/-- ACTIVATION_START (R410). -/
def execActivationStart (alive : Bool) (s : State) : Host.Outcome State Fault Refusal :=
  s.act (doActivationStart alive)

/-- REVERT (R411). -/
def execRevert (s : State) : Host.Outcome State Fault Refusal :=
  s.act doRevert

/-- PORT_RESET (R331). -/
def execPortReset (p : Port) (e : PortEvent) (u : PowerUp) (s : State) : Host.Outcome State Fault Refusal :=
  s.act (doPortReset p e u)

/-- WHOLE_DEVICE_RESET (R403). -/
def execWholeDeviceReset (t : Trigger) (u : PowerUp) (s : State) : Host.Outcome State Fault Refusal :=
  s.act (doWholeDeviceReset t u)

/-- POWER_UP (R396). -/
def execPowerUp (u : PowerUp) (s : State) : Host.Outcome State Fault Refusal :=
  s.act (doPowerUp u)

/-- POWER_DOWN (R418). -/
def execPowerDown (s : State) : Host.Outcome State Fault Refusal :=
  s.act doPowerDown

/-- INPUT_FAULT (R418). -/
def execInputFault (s : State) : Host.Outcome State Fault Refusal :=
  s.act doInputFault

/-- INPUT_RESTORED (R418). -/
def execInputRestored (u : PowerUp) (s : State) : Host.Outcome State Fault Refusal :=
  s.act (doInputRestored u)

/-- REPAIR_COMMAND_DONE (R363). -/
def execRepairCommandDone (p : Port) (pass : Bool) (s : State) : Host.Outcome State Fault Refusal :=
  s.act (doRepairCommandDone p pass)

/-- SUBSTITUTION_DONE (R358). -/
def execSubstitutionDone (pass : Bool) (s : State) : Host.Outcome State Fault Refusal :=
  s.act (doSubstitutionDone pass)

/-- FW_COMMAND_DONE (R415). -/
def execFwCommandDone (flashErr : Bool) (s : State) : Host.Outcome State Fault Refusal :=
  s.act (doFwCommandDone flashErr)

end Sys2Proof.Machine
end

