-- ==== Sys2Proof/Machine/CmdEntropy.lean ====
section
/-!
DEFINITION. The meanings of the commands of the entropy source (chapter 18).
-/

namespace Sys2Proof.Machine

/-- RAW_SAMPLE (R383). -/
def execRawSample (c : Nat) (sample : Bool) (s : State) : Host.Outcome State Fault Refusal :=
  s.act (doRawSample c sample)

/-- STARTUP_TEST_DONE (R385). -/
def execStartupTestDone (c : Nat) (s : State) : Host.Outcome State Fault Refusal :=
  s.act (doStartupTestDone c)

/-- KAT (R392). -/
def execKat (fail : Option Nat) (again : Bool) (s : State) : Host.Outcome State Fault Refusal :=
  s.act (doKat fail again)

/-- ENT_RING_CFG_WRITE (R388). -/
def execEntRingCfgWrite (w : Writer) (p : Port) (i v : Nat) (s : State) : Host.Outcome State Fault Refusal :=
  s.act (hostRingCfg w p i v)

/-- ENT_RING_TAIL (R390). -/
def execEntRingTail (w : Writer) (p : Port) (i tail : Nat) (s : State) : Host.Outcome State Fault Refusal :=
  s.act (hostRingTail w p i tail)

/-- ENT_REQUEST_SERVE (R390). -/
def execEntRequestServe (p : Port) (i entry : Nat) (hostErr : Bool) (s : State) : Host.Outcome State Fault Refusal :=
  s.act (doEntRequestServe p i entry hostErr)

/-- TRNG_RAW_READ (R394). -/
def execTrngRawRead (w : Writer) (p : Port) (s : State) : Host.Outcome State Fault Refusal :=
  s.act (hostRawRead w p)

end Sys2Proof.Machine
end

