-- ==== Sys2Proof/Machine/Mesh.lean ====
section
/-!
DEFINITION. Mesh routers (R244 to R254): the CRC of a hop, the slot table, reduction nodes, service flits.
-/

namespace Sys2Proof.Machine

def hopOk (payload side : Nat) : Bool := hopCrc payload side == bits side 32 16

/-- Check a flit at its hop: the flit that goes on, or none when the retransmission failed too. -/
def Dev.hopCheck (d : Dev) (c r : Nat) (x : MeshIn) : Option (Nat × Nat) × Dev :=
  let pg := Page.router c r
  let (inj, d) := d.fire pg
  let first := hopOk x.payload x.side && inj = 0
  if first then (some (x.payload, x.side), d)
  else
    let d := d.bump pg 0x068 1
    let rep := match x.again with
      | some y => if hopOk y.1 y.2 then some y else none
      | none => if inj != 0 && hopOk x.payload x.side then some (x.payload, x.side) else none
    match rep, decide (inj = 2) with
    | some y, false => (some y, d.retryTransient pg)
    | _, _ =>
      let d := d.wr pg 0x104 1 (putBits (d.rd pg 0x104 1) (x.port - 1) 1 1)
      (none, d.lasting pg 0x20 x.port (d.takeOf pg) true (nodeBlock c r))

/-- Output of a service or clapper flit: column first, then row (R252). -/
def serviceOut (c r dst : Nat) : Nat :=
  let dc := dst / 16
  let dr := dst % 16
  if c < dc then 2 else if dc < c then 4 else if r < dr then 3 else if dr < r then 1 else 5

/-- Source code of output port o (1 to 5) in a slot entry. -/
def slotOut (e o : Nat) : Nat := bits e (3 * (o - 1)) 3

/-- The table in force at a router: its period and the take, none while no running take lists the router (R253). -/
def Dev.tableOf (d : Dev) (c r : Nat) : Option (Port × Nat) :=
  match d.takeOf (.router c r) with
  | some p => let n := d.rd (.router c r) 0x10C 0; if n = 0 then none else some (p, n)
  | none => none

def Dev.slotWord (d : Dev) (c r i : Nat) : Nat := d.word (.slot c r) (0x100 + 4 * i)

/-- A mesh slot overrun (R18): of the running take that lists the router, else only recorded. -/
def Dev.meshFault (d : Dev) (c r code detail : Nat) : Dev :=
  match d.takeOf (.router c r) with
  | some p => d.raise p (.router c r) code detail
  | none => d.recordErr (.router c r) .schedule code detail

/-- Words of a reduction node (R167). -/
def nodeAdd (fp : Bool) (a b : Nat) : Nat :=
  packWords 32 ((List.range 32).map fun i => redAdd fp (bits a (32 * i) 32) (bits b (32 * i) 32))

/-- Send a flit out of every output port in a list, in router slot `idx`; the local port of a gateway's router
leads into the gateway (R292, R306). -/
def Dev.forward (d : Dev) (c r idx vc payload side : Nat) (outs : List Nat) : Dev :=
  outs.foldl (fun d o =>
    let d := d.emit (.flit (nodeId c r) o vc payload side)
    if o = 5 && r = 10 && c % 4 = 3 then d.gwIntake (c / 4) idx vc payload else d) d

/-- Virtual channel of a flit. -/
def MeshFlit.vc (f : MeshFlit) : Nat := bits f.side 0 3

/-- Router, and its input, at the other end of an output; none for the local port. -/
def meshNext (c r o : Nat) : Option (Nat × Nat) :=
  match o with
  | 1 => some (nodeId c (r - 1), 3)
  | 2 => some (nodeId (c + 1) r, 4)
  | 3 => some (nodeId c (r + 1), 1)
  | 4 => some (nodeId (c - 1) r, 2)
  | _ => none

/-- May a service flit leave by an output: has the next input buffer of 4 flits a place (R252)? -/
def Dev.hasCredit (d : Dev) (c r o : Nat) : Bool :=
  match meshNext c r o with
  | some (n, i) => decide (tget 0 d.credit (8 * n + i) < 4)
  | none => true

/-- A service flit leaves an input buffer by an output: its place is free, and one in the next buffer is taken. -/
def Dev.moveCredit (d : Dev) (c r i o : Nat) : Dev :=
  let k := 8 * nodeId c r + i
  let d := { d with credit := tput d.credit k (tget 0 d.credit k - 1) }
  match meshNext c r o with
  | some (n, i) => { d with credit := tput d.credit (8 * n + i) (tget 0 d.credit (8 * n + i) + 1) }
  | none => d

/-- What a beat of the unscheduled channels has done so far: outputs used, input buffers (port and channel) whose head
has had its turn, flits that stay, and whether a service flit found no free output. -/
structure MeshBeat where
  outs : List Nat := []
  heads : List (Nat × Nat) := []
  stay : List MeshFlit := []
  held : Bool := false

/-- One waiting clapper or service flit in a beat: the head of its input buffer leaves by its output where the beat is
free there, and a service flit where the next buffer has a place; else it stays, and those behind it too (R252, log
209). `free`: the outputs no slot entry takes this beat. -/
def meshServe (c r idx : Nat) (free : Nat → Bool) (acc : MeshBeat × Dev) (f : MeshFlit) : MeshBeat × Dev :=
  let (b, d) := acc
  let o := serviceOut c r (bits f.side 3 8)
  let svc := f.vc = 4
  if b.heads.contains (f.port, f.vc) then ({ b with stay := b.stay ++ [f] }, d)
  else
    let b := { b with heads := (f.port, f.vc) :: b.heads }
    if !free o || b.outs.contains o then ({ b with stay := b.stay ++ [f], held := b.held || svc }, d)
    else if svc && !d.hasCredit c r o then ({ b with stay := b.stay ++ [f] }, d)
    else
      let d := (d.forward c r idx f.vc f.payload f.side [o]).bump (.router c r) (if svc then 0x060 else 0x058) 1
      ({ b with outs := o :: b.outs }, if svc then d.moveCredit c r f.port o else d)

/-- The clapper and service flits of a router in a beat: those held and those that come, clapper flits first. -/
def Dev.meshService (d : Dev) (c r idx : Nat) (free : Nat → Bool) (new : List MeshFlit) : Dev :=
  let k := nodeId c r
  let all := tget [] d.held k ++ new
  let (b, d) := ((all.filter (·.vc = 3)) ++ all.filter (·.vc = 4)).foldl (meshServe c r idx free) ({}, d)
  let d := { d with held := if b.stay.isEmpty then tdel d.held k else tput d.held k b.stay }
  if b.held then d.bump (.router c r) 0x078 1 else d

/-- Flits that arrive in one beat: at most one at each port that is there and up, of 128 bytes (R244, R247, R249). -/
def Dev.meshIns (d : Dev) (c r : Nat) (ins : List MeshIn) : List MeshIn :=
  ins.foldl (fun acc x =>
    if 1 ≤ x.port && x.port ≤ 5 && bit (portsPresent c r) (x.port - 1) &&
        !bit (d.rd (.router c r) 0x104 1) (x.port - 1) && decide (x.payload < 2 ^ 1024) &&
        !acc.any (·.port == x.port) then acc ++ [x]
    else acc) []

/-- MESH_FLIT: a beat, counted from GO, of router N(c,r), with the flits that arrive in it. A flit that waits for its
retransmission delays a member (`waits`). -/
def doMeshFlit (c r beat : Nat) (ins : List MeshIn) (waits : Option Wait) (d : Dev) : Dev :=
  if !(c < 16 && r < 11) then d
  else
    let pg := Page.router c r
    let step (acc : List MeshFlit × Dev) (x : MeshIn) : List MeshFlit × Dev :=
      let h := acc.2.hopCheck c r x
      match h.1 with
      | some y => (acc.1 ++ [⟨x.port, y.1, y.2⟩], h.2)
      | none => (acc.1, h.2)
    let (fs, d) := (d.meshIns c r ins).foldl step ([], d.oneBeat)
    let d := d.retryWait waits
    let idx := match d.tableOf c r with | some t => beat % t.2 | none => 0
    let e := match d.tableOf c r with | some _ => d.slotWord c r idx | none => 0
    let inTable := (d.tableOf c r).isSome
    let outsOf (src : Nat) : List Nat := ((List.range 5).map (· + 1)).filter fun o => slotOut e o = src
    let ra := bits e 15 3
    let rb := bits e 18 3
    let overrun (port vc : Nat) (d : Dev) : Dev := d.meshFault c r 0x04 (port + idx * 2 ^ 3 + vc * 2 ^ 13)
    -- scheduled, delta and reduction flits (R251)
    let sched (d : Dev) (f : MeshFlit) : Dev :=
      let vc := f.vc
      let outs := outsOf f.port
      let red := ra != 0 && (f.port = ra || f.port = rb)
      if 4 < vc then overrun f.port vc d
      else if 3 ≤ vc then d
      else if !inTable || (outs.isEmpty && !red) then overrun f.port vc d
      else
        let other := if f.port = ra then rb else ra
        let d := if outs.isEmpty then d else (d.forward c r idx vc f.payload f.side outs).bump pg (0x040 + 8 * vc) 1
        if red && vc = 2 && !(fs.any fun g => g.port = other && g.vc = 2) then d.meshFault c r 0x05 idx else d
    let d := fs.foldl sched d
    -- the reduction node
    let opd (k : Nat) : Option MeshFlit := fs.find? fun g => g.port = k && g.vc = 2
    let d := match opd ra, opd rb with
      | some a, some b =>
        if inTable && ra != 0 then
          let v := nodeAdd (bit e 21) a.payload b.payload
          let side := putBits a.side 32 16 (hopCrc v a.side)
          let d := (d.forward c r idx 2 v side (outsOf 6)).bump pg 0x070 1
          if (outsOf 6).isEmpty then d else d.bump pg 0x050 1
        else d
      | _, _ => d
    d.meshService c r idx (fun o => !inTable || slotOut e o = 0) (fs.filter fun f => f.vc = 3 || f.vc = 4)

end Sys2Proof.Machine
end

