-- ==== Sys2Proof/Machine/CmdFabric.lean ====
section
/-!
DEFINITION. The meanings of the commands of mesh, service arbiters, scratchpads and vaults (chapters 10 and 11).
-/

namespace Sys2Proof.Machine

/-- MESH_FLIT (R251). -/
def execMeshFlit (c r beat : Nat) (ins : List MeshIn) (wait : Option Wait) (s : State) :
    Host.Outcome State Fault Refusal :=
  s.act (doMeshFlit c r beat ins wait)

/-- SERVICE_REQUEST (R257). -/
def execServiceRequest (i q : Nat) (reqs : List (Nat × Nat)) (beat : Nat) (s : State) :
    Host.Outcome State Fault Refusal :=
  s.act (doServiceRequest i q reqs beat)

/-- ARBITER_DECISION (R257). -/
def execArbiterDecision (i q beat : Nat) (s : State) : Host.Outcome State Fault Refusal :=
  s.act (doArbiterDecision i q beat)

/-- REVOCATION (R259). -/
def execRevocation (i q beat : Nat) (s : State) : Host.Outcome State Fault Refusal :=
  s.act (doRevocation i q beat)

/-- WITHDRAWAL (R260). -/
def execWithdrawal (i q beat : Nat) (s : State) : Host.Outcome State Fault Refusal :=
  s.act (doWithdrawal i q beat)

/-- BURST_EXPIRY (R261). -/
def execBurstExpiry (i q beat : Nat) (s : State) : Host.Outcome State Fault Refusal :=
  s.act (doBurstExpiry i q beat)

/-- BANK_OWNER_WRITE (R219). -/
def execBankOwnerWrite (w : Writer) (c b v : Nat) (s : State) : Host.Outcome State Fault Refusal :=
  s.act (hostBankOwner w c b v)

/-- HANDOVER_COMPLETE (R220). -/
def execHandoverComplete (c b : Nat) (s : State) : Host.Outcome State Fault Refusal :=
  s.act (doHandoverComplete c b)

/-- BANK_POWER_REQUEST (R224). -/
def execBankPowerRequest (w : Writer) (c b req : Nat) (s : State) : Host.Outcome State Fault Refusal :=
  s.act (hostBankPower w c b req)

/-- BANK_TRANSITION_DONE (R225). -/
def execBankTransitionDone (c b : Nat) (s : State) : Host.Outcome State Fault Refusal :=
  s.act (doBankTransitionDone c b)

/-- SRAM_ACCESS (R229). -/
def execSramAccess (who : Who) (addr len : Nat) (data : Option (List Byte)) (e : Check) (s : State) :
    Host.Outcome State Fault Refusal :=
  s.act (doSramAccess who addr len data e)

/-- MERGE_WRITE (R222). -/
def execMergeWrite (c b : Nat) (s : State) : Host.Outcome State Fault Refusal :=
  s.act (doMergeWrite c b)

/-- TEST_REGION (R226). -/
def execTestRegion (c : Nat) (e : Check) (s : State) : Host.Outcome State Fault Refusal :=
  s.act (doTestRegion c e)

/-- TEST_SKIP_BANK (R226). -/
def execTestSkipBank (c : Nat) (s : State) : Host.Outcome State Fault Refusal :=
  s.act (doTestSkipBank c)

/-- VAULT_ACCESS (R232). -/
def execVaultAccess (who : Who) (addr len : Nat) (data : Option (List Byte)) (e : Check) (member beat : Nat) (s : State) :
    Host.Outcome State Fault Refusal :=
  s.act (doVaultAccess who addr len data e member beat)

/-- REFRESH (R234). -/
def execRefresh (v : Nat) (delayed : List Wait) (s : State) : Host.Outcome State Fault Refusal :=
  s.act (doRefresh v delayed)

/-- LAYER_SENSOR_READING (R234). -/
def execLayerSensorReading (c layer temp : Nat) (s : State) : Host.Outcome State Fault Refusal :=
  s.act (doLayerSensorReading c layer temp)

/-- SCRUB_LINE (R237). -/
def execScrubLine (v : Nat) (e : Check) (s : State) : Host.Outcome State Fault Refusal :=
  s.act (doScrubLine v e)

/-- VAULT_CLEAR (R238). -/
def execVaultClear (w : Writer) (v : Nat) (s : State) : Host.Outcome State Fault Refusal :=
  s.act (hostVaultClear w v)

/-- VAULT_CLEAR_DONE (R238). -/
def execVaultClearDone (v : Nat) (s : State) : Host.Outcome State Fault Refusal :=
  s.act (doVaultClearDone v)

/-- LOCK_REQUEST (R230). -/
def execLockRequest (vault : Bool) (c n a : Nat) (s : State) : Host.Outcome State Fault Refusal :=
  s.act (doLockRequest vault c n a)

end Sys2Proof.Machine
end

