-- ==== Sys2Proof/Machine/CmdHost.lean ====
section
/-!
DEFINITION. The meanings of the commands of host ports and registers (chapters 5, 14 and 21).
-/

namespace Sys2Proof.Machine

/-- BAR2_READ (R325). -/
def execBar2Read (p : Port) (off n : Nat) (s : State) : Host.Outcome State Fault Refusal :=
  s.act (doBar2Read p off n)

/-- BAR2_WRITE (R325). -/
def execBar2Write (p : Port) (off : Nat) (data : List Byte) (badEcrc : Bool) (s : State) :
    Host.Outcome State Fault Refusal :=
  s.act (doBar2Write p off data badEcrc)

/-- REGISTER_WRITE (R13). -/
def execRegisterWrite (w : Writer) (bar4 : Bool) (addr n v : Nat) (s : State) : Host.Outcome State Fault Refusal :=
  s.act (doRegisterWrite w bar4 addr n v)

/-- COUNTER_LOW_READ (R82). -/
def execCounterLowRead (w : Writer) (bar4 : Bool) (addr n : Nat) (s : State) : Host.Outcome State Fault Refusal :=
  s.act (doRegisterRead w bar4 addr n)

/-- READ_CLEAR (R12). -/
def execReadClear (w : Writer) (addr n : Nat) (s : State) : Host.Outcome State Fault Refusal :=
  s.act (doReadClear w addr n)

/-- CNT_CLEAR (R82). -/
def execCntClear (w : Writer) (ty inst : Nat) (s : State) : Host.Outcome State Fault Refusal :=
  s.act (hostCntClear w ty inst)

/-- ERR_CLEAR (R433). -/
def execErrClear (w : Writer) (ty inst : Nat) (s : State) : Host.Outcome State Fault Refusal :=
  s.act (hostHeader w ty inst 0x010 1)

/-- RETRY_CLEAR (R432). -/
def execRetryClear (w : Writer) (ty inst : Nat) (s : State) : Host.Outcome State Fault Refusal :=
  s.act (hostHeader w ty inst 0x010 2)

/-- ERR_STATUS_WRITE (R433). -/
def execErrStatusWrite (w : Writer) (ty inst v : Nat) (s : State) : Host.Outcome State Fault Refusal :=
  s.act (hostHeader w ty inst 0x018 v)

/-- ERR_INJECT (R435). -/
def execErrInject (w : Writer) (ty inst mode : Nat) (s : State) : Host.Outcome State Fault Refusal :=
  s.act (hostHeader w ty inst 0x024 (mode % 4))

/-- DEBUG_READ (R163). -/
def execDebugRead (w : Writer) (q : Nat) (s : State) : Host.Outcome State Fault Refusal :=
  s.act (hostDebugRead w q)

/-- GEN_GO (R129). -/
def execGenGo (w : Writer) (p : Port) (ctrl : Nat) (s : State) : Host.Outcome State Fault Refusal :=
  s.act (hostGenGo w p ctrl)

/-- GEN_EVAL_DONE (R129). -/
def execGenEvalDone (p : Port) (s : State) : Host.Outcome State Fault Refusal :=
  s.act (doGenEvalDone p)

/-- PCIE_LINK_UP (R320). -/
def execPcieLinkUp (p : Port) (rate width : Nat) (flit ecrc : Bool) (bar2 : Nat) (s : State) :
    Host.Outcome State Fault Refusal :=
  s.act (doPcieLinkUp p rate width flit ecrc bar2)

/-- PERST_RELEASE (R333). -/
def execPerstRelease (p : Port) (s : State) : Host.Outcome State Fault Refusal :=
  s.act (doPerstRelease p)

/-- POWER_STATE_CHANGE (R321). -/
def execPowerStateChange (p : Port) (d3 : Bool) (s : State) : Host.Outcome State Fault Refusal :=
  s.act (doPowerStateChange p d3)

/-- HOST_COMPLETION (R285). -/
def execHostCompletion (n i status : Nat) (data : List Byte) (s : State) : Host.Outcome State Fault Refusal :=
  s.act (doCompletion n i status data)

end Sys2Proof.Machine
end

