-- ==== Sys2Proof/Machine/CmdLink.lean ====
section
/-!
DEFINITION. The meanings of the commands of Solcorin links (chapter 13).
-/

namespace Sys2Proof.Machine

/-- UNDRAIN (R315). -/
def execUndrain (w : Writer) (i : Nat) (s : State) : Host.Outcome State Fault Refusal :=
  s.act (hostLinkCmd w i 8)

/-- LINK_DRAINED (R427). -/
def execLinkDrained (i : Nat) (s : State) : Host.Outcome State Fault Refusal :=
  s.act (doLinkDrained i)

/-- RETRAIN (R295). -/
def execRetrain (w : Writer) (i : Nat) (s : State) : Host.Outcome State Fault Refusal :=
  s.act (hostLinkCmd w i 1)

/-- RECAL (R295). -/
def execRecal (w : Writer) (i : Nat) (s : State) : Host.Outcome State Fault Refusal :=
  s.act (hostLinkCmd w i 2)

/-- LINK_TRAINED (R294). -/
def execLinkTrained (i dev plink offer family : Nat) (s : State) : Host.Outcome State Fault Refusal :=
  s.act (doLinkTrained i dev plink offer family)

/-- LINK_TRAIN_FAIL (R294). -/
def execLinkTrainFail (i : Nat) (s : State) : Host.Outcome State Fault Refusal :=
  s.act (doLinkTrainFail i)

/-- LINK_TRAIN_RETRY (R294). -/
def execLinkTrainRetry (i : Nat) (s : State) : Host.Outcome State Fault Refusal :=
  s.act (doLinkTrainRetry i)

/-- LINK_TRANSMIT (R304). -/
def execLinkTransmit (i : Nat) (wait : Option Wait) (s : State) : Host.Outcome State Fault Refusal :=
  s.act (doLinkTransmit i wait)

/-- LINK_CONTROL_WORD (R297). -/
def execLinkControlWord (i word c0 c1 : Nat) (s : State) : Host.Outcome State Fault Refusal :=
  s.act (doLinkControlWord i word c0 c1)

/-- LINK_FLIT_ERROR (R300). -/
def execLinkFlitError (i seq : Nat) (uncorr : Bool) (wait : Option Wait) (s : State) :
    Host.Outcome State Fault Refusal :=
  s.act (doLinkFlitError i seq uncorr wait)

/-- LINK_SCHEDULED_FLIT (R305). -/
def execLinkScheduledFlit (i flit : Nat) (s : State) : Host.Outcome State Fault Refusal :=
  s.act (doLinkScheduledFlit i flit)

/-- RECOVERY_FLIT (R302). -/
def execRecoveryFlit (l seq vc body : Nat) (s : State) : Host.Outcome State Fault Refusal :=
  s.act (doRecoveryFlit l seq vc body)

/-- FORK_RELEASE (R312). -/
def execForkRelease (q flow : Nat) (s : State) : Host.Outcome State Fault Refusal :=
  s.act (doForkRelease q flow)

/-- MCAST_STALL (R312). -/
def execMcastStall (q flow : Nat) (s : State) : Host.Outcome State Fault Refusal :=
  s.act (doMcastStall q flow)

/-- ARRIVE (R309). -/
def execArrive (i flit : Nat) (s : State) : Host.Outcome State Fault Refusal :=
  s.act (doArrive i flit)

/-- RELEASE (R309). -/
def execRelease (i flit : Nat) (s : State) : Host.Outcome State Fault Refusal :=
  s.act (doRelease i flit)

/-- CLAP_STOP (R309). -/
def execClapStop (i flit : Nat) (s : State) : Host.Outcome State Fault Refusal :=
  s.act (doClapStop i flit)

/-- SERVICE_WRITE (R311). -/
def execServiceWrite (i flit : Nat) (s : State) : Host.Outcome State Fault Refusal :=
  s.act (doServiceWrite i flit)

/-- READ_REQUEST (R311). -/
def execReadRequest (i flit : Nat) (s : State) : Host.Outcome State Fault Refusal :=
  s.act (doReadRequest i flit)

/-- READ_RESPONSE (R299). -/
def execReadResponse (i flit : Nat) (s : State) : Host.Outcome State Fault Refusal :=
  s.act (doReadResponse i flit)

/-- ERROR_RESPONSE (R310). -/
def execErrorResponse (i flit : Nat) (s : State) : Host.Outcome State Fault Refusal :=
  s.act (doErrorResponse i flit)

/-- LINK_MANAGEMENT (R299). -/
def execLinkManagement (i flit : Nat) (drain : Bool) (s : State) : Host.Outcome State Fault Refusal :=
  s.act (doLinkManagement i flit drain)

/-- LOSS_OF_SIGNAL (R334). -/
def execLossOfSignal (i : Nat) (s : State) : Host.Outcome State Fault Refusal :=
  s.act (doLossOfSignal i)

/-- RECALIBRATION_DONE (R295). -/
def execRecalibrationDone (i : Nat) (s : State) : Host.Outcome State Fault Refusal :=
  s.act (doRecalibrationDone i)

end Sys2Proof.Machine
end

