-- ==== Sys2Proof/Machine/CmdMatrix.lean ====
section
/-!
DEFINITION. The meanings of the commands of matrix engines (chapters 6 and 7).
-/

namespace Sys2Proof.Machine

/-- FIELD_STRIP (R142). -/
def execFieldStrip (p : Port) (i entry : Nat) (s : State) : Host.Outcome State Fault Refusal :=
  s.act (doFieldStrip p i entry)

/-- STATE_STRIP (R140). -/
def execStateStrip (p : Port) (i base row rows cols fmt : Nat) (s : State) : Host.Outcome State Fault Refusal :=
  s.act (doStateStrip p i base row rows cols fmt)

/-- MMA (R155). -/
def execMma (p : Port) (k : Nat) (s : State) : Host.Outcome State Fault Refusal :=
  s.act (doMma p k)

/-- MMA_FLIP (R145). -/
def execMmaFlip (p : Port) (k : Nat) (s : State) : Host.Outcome State Fault Refusal :=
  s.act (doMmaFlip p k)

/-- MMA_OUTER (R150). -/
def execMmaOuter (p : Port) (k : Nat) (s : State) : Host.Outcome State Fault Refusal :=
  s.act (doMmaOuter p k)

/-- DRAIN (R161). -/
def execDrain (p : Port) (k : Nat) (s : State) : Host.Outcome State Fault Refusal :=
  s.act (doDrain p k)

/-- FIELD_SET (R141). -/
def execFieldSet (p : Port) (k : Nat) (dsts : List Nat) (s : State) : Host.Outcome State Fault Refusal :=
  s.act (doFieldSet p k dsts)

/-- FIELD_DIFF (R141). -/
def execFieldDiff (p : Port) (k : Nat) (dsts : List Nat) (s : State) : Host.Outcome State Fault Refusal :=
  s.act (doFieldDiff p k dsts)

/-- LOAD (R196). -/
def execLoad (p : Port) (k : Nat) (s : State) : Host.Outcome State Fault Refusal :=
  s.act (doLoad p k)

/-- STORE (R196). -/
def execStore (p : Port) (k : Nat) (s : State) : Host.Outcome State Fault Refusal :=
  s.act (doStore p k)

/-- SET_GROUPS (R149). -/
def execSetGroups (p : Port) (k : Nat) (s : State) : Host.Outcome State Fault Refusal :=
  s.act (doSetGroups p k)

end Sys2Proof.Machine
end

