-- ==== Sys2Proof/Machine/CmdModule.lean ====
section
/-!
DEFINITION. The meanings of the commands of the sideband and the cages (chapter 20).
-/

namespace Sys2Proof.Machine

/-- REG_READ (R422). -/
def execRegRead (addr count : Nat) (s : State) : Host.Outcome State Fault Refusal :=
  s.act (doRegRead addr count)

/-- REG_WRITE (R422). -/
def execRegWrite (addr : Nat) (words : List Nat) (s : State) : Host.Outcome State Fault Refusal :=
  s.act (doRegWrite addr words)

/-- RESET (R422). -/
def execReset (u : PowerUp) (s : State) : Host.Outcome State Fault Refusal :=
  s.act (doSidebandReset u)

/-- PLDM_SENSOR_READ (R421). -/
def execPldmSensorRead (sensor sensed : Nat) (s : State) : Host.Outcome State Fault Refusal :=
  s.act (doSensorRead sensor sensed)

/-- PLDM_FIRMWARE_UPDATE (R409). -/
def execPldmFirmwareUpdate (x : PldmFw) (s : State) : Host.Outcome State Fault Refusal :=
  s.act (doPldmFw x)

/-- TOUCH (R426). -/
def execTouch (k ms : Nat) (s : State) : Host.Outcome State Fault Refusal :=
  s.act (doTouch k ms)

/-- ATTENTION_BUTTON (R426). -/
def execAttentionButton (k : Nat) (s : State) : Host.Outcome State Fault Refusal :=
  s.act (doAttentionButton k)

/-- CABLE_INSERT (R428). -/
def execCableInsert (k : Nat) (osfp8 : Bool) (power ident : Nat) (s : State) : Host.Outcome State Fault Refusal :=
  s.act (doCableInsert k osfp8 power ident)

/-- CABLE_READY (R428). -/
def execCableReady (k : Nat) (fault : Bool) (s : State) : Host.Outcome State Fault Refusal :=
  s.act (doCableReady k fault)

/-- CABLE_REMOVED (R429). -/
def execCableRemoved (k : Nat) (s : State) : Host.Outcome State Fault Refusal :=
  s.act (doCableRemoved k)

/-- DEBUG_UART_INPUT (R423). -/
def execDebugUartInput (b : Nat) (s : State) : Host.Outcome State Fault Refusal :=
  s.act (doUartInput b)

end Sys2Proof.Machine
end

