-- ==== Sys2Proof/Machine/CmdPump.lean ====
section
/-!
DEFINITION. The meanings of the commands of pumps and wells (chapter 12).
-/

namespace Sys2Proof.Machine

/-- DOORBELL (R269). -/
def execDoorbell (p : Port) (well value : Nat) (s : State) : Host.Outcome State Fault Refusal :=
  s.act (doHostDoorbell p well value)

/-- PROGRAM_START (R283). -/
def execProgramStart (n waited : Nat) (s : State) : Host.Outcome State Fault Refusal :=
  s.act (doProgramStart n waited)

/-- MOVE (R274). -/
def execMove (n : Nat) (s : State) : Host.Outcome State Fault Refusal :=
  s.act (doMove n)

/-- FILL (R271). -/
def execFill (n : Nat) (s : State) : Host.Outcome State Fault Refusal :=
  s.act (doFill n)

/-- COMPARE (R271). -/
def execCompare (n : Nat) (s : State) : Host.Outcome State Fault Refusal :=
  s.act (doCompare n)

/-- PUMP_LOOP (R275). -/
def execPumpLoop (n : Nat) (s : State) : Host.Outcome State Fault Refusal :=
  s.act (doPumpLoop n)

/-- WAIT (R276). -/
def execWait (n : Nat) (s : State) : Host.Outcome State Fault Refusal :=
  s.act (doWait n)

/-- WAIT_CONDITION_MET (R276). -/
def execWaitConditionMet (x : Waiter) (s : State) : Host.Outcome State Fault Refusal :=
  s.act (doWaitConditionMet x)

/-- WAIT_TIMEOUT (R276). -/
def execWaitTimeout (n : Nat) (s : State) : Host.Outcome State Fault Refusal :=
  s.act (doWaitTimeout n)

/-- SIGNAL (R277). -/
def execSignal (n : Nat) (s : State) : Host.Outcome State Fault Refusal :=
  s.act (doSignal n)

/-- PUMP_END (R278). -/
def execPumpEnd (n : Nat) (s : State) : Host.Outcome State Fault Refusal :=
  s.act (doPumpEnd n)

/-- PUMP_FAULT (R285). -/
def execPumpFault (n cause dir space addr : Nat) (again : Bool) (s : State) : Host.Outcome State Fault Refusal :=
  s.act (doPumpFault n cause dir space addr again)

/-- STOP (R286). -/
def execStop (w : Writer) (well : Nat) (s : State) : Host.Outcome State Fault Refusal :=
  s.act (hostWellCtrl w well 1)

/-- RESUME (R285). -/
def execResume (w : Writer) (well : Nat) (s : State) : Host.Outcome State Fault Refusal :=
  s.act (hostWellCtrl w well 2)

/-- SKIP (R285). -/
def execSkip (w : Writer) (well : Nat) (s : State) : Host.Outcome State Fault Refusal :=
  s.act (hostWellCtrl w well 4)

/-- WELL_CFG_WRITE (R269). -/
def execWellCfgWrite (w : Writer) (well v : Nat) (s : State) : Host.Outcome State Fault Refusal :=
  s.act (hostWellCfg w well v)

/-- CRING_CFG_WRITE (R279). -/
def execCringCfgWrite (w : Writer) (ring v : Nat) (s : State) : Host.Outcome State Fault Refusal :=
  s.act (hostCringCfg w ring v)

/-- CRING_HEAD_WRITE (R279). -/
def execCringHeadWrite (w : Writer) (ring head : Nat) (s : State) : Host.Outcome State Fault Refusal :=
  s.act (hostCringHead w ring head)

end Sys2Proof.Machine
end

