-- ==== Sys2Proof/Machine/CmdReel.lean ====
section
/-!
DEFINITION. The meanings of the commands of reels (chapter 15).
-/

namespace Sys2Proof.Machine

/-- REEL_CAPTURE (R339). -/
def execReelCapture (p : Port) (s : State) : Host.Outcome State Fault Refusal :=
  s.act (doReelCapture p)

/-- REEL_VERIFY (R346). -/
def execReelVerify (p : Port) (s : State) : Host.Outcome State Fault Refusal :=
  s.act (hostReel p 1 none)

/-- RESTORE (R347). -/
def execRestore (p : Port) (fails : Option Nat) (s : State) : Host.Outcome State Fault Refusal :=
  s.act (hostReel p 2 fails)

/-- KEYGEN (R345). -/
def execKeygen (p : Port) (s : State) : Host.Outcome State Fault Refusal :=
  s.act (hostReel p 3 none)

/-- KEYLOAD (R345). -/
def execKeyload (p : Port) (s : State) : Host.Outcome State Fault Refusal :=
  s.act (hostReel p 4 none)

/-- KEYCLEAR (R345). -/
def execKeyclear (p : Port) (s : State) : Host.Outcome State Fault Refusal :=
  s.act (hostReel p 5 none)

/-- CAPTURE_DONE (R339). -/
def execCaptureDone (p : Port) (s : State) : Host.Outcome State Fault Refusal :=
  s.act (doCaptureDone p)

/-- REEL_COMMAND_DONE (R351). -/
def execReelCommandDone (p : Port) (s : State) : Host.Outcome State Fault Refusal :=
  s.act (doReelCommandDone p)

end Sys2Proof.Machine
end

