-- ==== Sys2Proof/Machine/CmdScript.lean ====
section
/-!
DEFINITION. The meanings of the commands of script and clapper-script instructions that every block knows (R190 to R204).
-/

namespace Sys2Proof.Machine

/-- NOP (R191). -/
def execNop (p : Port) (k : Nat) (s : State) : Host.Outcome State Fault Refusal :=
  s.act (doNop p k)

/-- END (R191). -/
def execEndScript (p : Port) (k : Nat) (s : State) : Host.Outcome State Fault Refusal :=
  s.act (doEnd p k)

/-- CLAP (R191). -/
def execClap (p : Port) (k : Nat) (s : State) : Host.Outcome State Fault Refusal :=
  s.act (doClap p k)

/-- CLAP_CUT (R191). -/
def execClapCut (p : Port) (k : Nat) (s : State) : Host.Outcome State Fault Refusal :=
  s.act (doClapCut p k)

/-- CLAP_EARLY (R191). -/
def execClapEarly (p : Port) (k : Nat) (s : State) : Host.Outcome State Fault Refusal :=
  s.act (doClapEarly p k)

/-- LOOP (R191). -/
def execLoop (p : Port) (k : Nat) (s : State) : Host.Outcome State Fault Refusal :=
  s.act (doLoop p k)

/-- MARK (R191). -/
def execMark (p : Port) (k : Nat) (s : State) : Host.Outcome State Fault Refusal :=
  s.act (doMark p k)

/-- WAIT_SEM (R191). -/
def execWaitSem (p : Port) (k : Nat) (s : State) : Host.Outcome State Fault Refusal :=
  s.act (doWaitSem p k)

/-- POST_SEM (R191). -/
def execPostSem (p : Port) (k : Nat) (s : State) : Host.Outcome State Fault Refusal :=
  s.act (doPostSem p k)

/-- FETCH_SVC (R191). -/
def execFetchSvc (p : Port) (k : Nat) (s : State) : Host.Outcome State Fault Refusal :=
  s.act (doFetchSvc p k)

/-- PHASE (R198). -/
def execPhase (p : Port) (k : Nat) (s : State) : Host.Outcome State Fault Refusal :=
  s.act (doPhase p k)

/-- CUT (R198). -/
def execCut (p : Port) (k : Nat) (s : State) : Host.Outcome State Fault Refusal :=
  s.act (doCut p k)

/-- WATCHDOG (R198). -/
def execWatchdog (p : Port) (k : Nat) (s : State) : Host.Outcome State Fault Refusal :=
  s.act (doWatchdog p k)

end Sys2Proof.Machine
end

