-- ==== Sys2Proof/Machine/CmdSluice.lean ====
section
/-!
DEFINITION. The meanings of the commands of the sluice (chapter 17).
-/

namespace Sys2Proof.Machine

/-- BUDGET_REQUEST (R370). -/
def execBudgetRequest (w : Writer) (reg v : Nat) (s : State) : Host.Outcome State Fault Refusal :=
  s.act (hostBudget w reg v)

/-- SLU_SHARE_WRITE (R372). -/
def execSluShareWrite (w : Writer) (v : Nat) (s : State) : Host.Outcome State Fault Refusal :=
  s.act (hostShare w v)

/-- VCORE_SET (R366). -/
def execVcoreSet (w : Writer) (mv : Nat) (s : State) : Host.Outcome State Fault Refusal :=
  s.act (hostVcore w mv)

/-- THROTTLE_DECISION (R374). -/
def execThrottleDecision (ty inst est total : Nat) (s : State) : Host.Outcome State Fault Refusal :=
  s.act (onBlock ty inst fun pg => doThrottleDecision pg est total)

/-- THROTTLE_STEP_DOWN (R374). -/
def execThrottleStepDown (ty inst : Nat) (s : State) : Host.Outcome State Fault Refusal :=
  s.act (onBlock ty inst doThrottleStepDown)

/-- CORE_WIDE_THROTTLE (R376). -/
def execCoreWideThrottle (ty inst total : Nat) (s : State) : Host.Outcome State Fault Refusal :=
  s.act (onBlock ty inst fun pg => doCoreWideThrottle pg total)

/-- CORE_WIDE_RELEASE (R376). -/
def execCoreWideRelease (total : Nat) (s : State) : Host.Outcome State Fault Refusal :=
  s.act (doCoreWideRelease total)

/-- DROOP (R378). -/
def execDroop (mv : Nat) (s : State) : Host.Outcome State Fault Refusal :=
  s.act (doDroop mv)

/-- DROOP_RELEASE (R378). -/
def execDroopRelease (mv : Nat) (s : State) : Host.Outcome State Fault Refusal :=
  s.act (doDroopRelease mv)

/-- THERMAL_FACTOR (R379). -/
def execThermalFactor (temps : List Nat) (s : State) : Host.Outcome State Fault Refusal :=
  s.act (doThermalFactor temps)

/-- THERMAL_TRIP (R380). -/
def execThermalTrip (column temp : Nat) (s : State) : Host.Outcome State Fault Refusal :=
  s.act (doThermalTrip column temp)

end Sys2Proof.Machine
end

