-- ==== Sys2Proof/Machine/CmdTake.lean ====
section
/-!
DEFINITION. The meanings of the commands of the take and the root of its clapper (chapter 9).
-/

namespace Sys2Proof.Machine

/-- TAKE_LOAD (R211). -/
def execTakeLoad (p : Port) (m : Nat) (s : State) : Host.Outcome State Fault Refusal :=
  s.act (hostMail p 1 m)

/-- VALIDATION_DONE (R208). -/
def execValidationDone (p : Port) (s : State) : Host.Outcome State Fault Refusal :=
  s.act (doValidationDone p)

/-- WRITING_DONE (R211). -/
def execWritingDone (p : Port) (s : State) : Host.Outcome State Fault Refusal :=
  s.act (doWritingDone p)

/-- TAKE_GO (R211). -/
def execTakeGo (p : Port) (m : Nat) (s : State) : Host.Outcome State Fault Refusal :=
  s.act (hostMail p 2 m)

/-- TAKE_ABORT (R213). -/
def execTakeAbort (p : Port) (m : Nat) (s : State) : Host.Outcome State Fault Refusal :=
  s.act (hostMail p 3 m)

/-- TAKE_UNLOAD (R213). -/
def execTakeUnload (p : Port) (m : Nat) (s : State) : Host.Outcome State Fault Refusal :=
  s.act (hostMail p 4 m)

/-- POSTING (R212). -/
def execPosting (p : Port) (s : State) : Host.Outcome State Fault Refusal :=
  s.act (doPosting p)

/-- OCCURRENCE_RELEASE (R200). -/
def execOccurrenceRelease (p : Port) (id : Nat) (s : State) : Host.Outcome State Fault Refusal :=
  s.act (doOccurrenceRelease p id)

/-- WATCHDOG_EXPIRY (R198). -/
def execWatchdogExpiry (p : Port) (id : Nat) (s : State) : Host.Outcome State Fault Refusal :=
  s.act (doWatchdogExpiry p id)

end Sys2Proof.Machine
end

