-- ==== Sys2Proof/Machine/CmdTile.lean ====
section
/-!
DEFINITION. The meanings of the commands of sampling tiles and lattice takes (chapters 3 and 4).
-/

namespace Sys2Proof.Machine

/-- STEP_CLAPPER_RELEASE (R71). -/
def execStepClapperRelease (p : Port) (s : State) : Host.Outcome State Fault Refusal :=
  s.act (doStepClapperRelease p)

/-- FRAME_END (R75). -/
def execFrameEnd (p : Port) (s : State) : Host.Outcome State Fault Refusal :=
  s.act (doFrameEnd p)

/-- FIELD_INIT (R65). -/
def execFieldInit (p : Port) (k : Nat) (s : State) : Host.Outcome State Fault Refusal :=
  s.act (doFieldInit p k)

/-- SWEEP (R54). -/
def execSweep (p : Port) (k : Nat) (s : State) : Host.Outcome State Fault Refusal :=
  s.act (doSweep p k)

/-- SWEEP_SYNC (R77). -/
def execSweepSync (p : Port) (k : Nat) (s : State) : Host.Outcome State Fault Refusal :=
  s.act (doSweepSync p k)

/-- SAMPLE_TAP (R79). -/
def execSampleTap (p : Port) (k : Nat) (s : State) : Host.Outcome State Fault Refusal :=
  s.act (doSampleTap p k)

/-- STATE_INIT (R117). -/
def execStateInit (p : Port) (k : Nat) (s : State) : Host.Outcome State Fault Refusal :=
  s.act (doStateInit p k)

/-- TRUE_INIT (R192). -/
def execTrueInit (p : Port) (k : Nat) (s : State) : Host.Outcome State Fault Refusal :=
  s.act (doTrueInit p k)

/-- SAMPLE_TRUE (R192). -/
def execSampleTrue (p : Port) (k : Nat) (s : State) : Host.Outcome State Fault Refusal :=
  s.act (doSampleTrue p k)

/-- STRIP_SEND (R140). -/
def execStripSend (p : Port) (k : Nat) (dsts : List Nat) (fmt : Nat) (s : State) : Host.Outcome State Fault Refusal :=
  s.act (doStripSend p k dsts fmt)

/-- ENERGY_SHARE (R195). -/
def execEnergyShare (p : Port) (k : Nat) (s : State) : Host.Outcome State Fault Refusal :=
  s.act (doEnergyShare p k)

/-- REDUCE_SEND (R166). -/
def execReduceSend (p : Port) (k : Nat) (s : State) : Host.Outcome State Fault Refusal :=
  s.act (doReduceSend p k)

/-- DELTA_FLIT (R73). -/
def execDeltaFlit (p : Port) (payload : List Nat) (s : State) : Host.Outcome State Fault Refusal :=
  s.act (doDeltaFlit p payload)

/-- GATE_DELTA (R43). -/
def execGateDelta (p : Port) (flit : Nat) (s : State) : Host.Outcome State Fault Refusal :=
  s.act (doGateDelta p flit)

/-- EDGE_RECORD (R95). -/
def execEdgeRecord (p : Port) (flit : Nat) (s : State) : Host.Outcome State Fault Refusal :=
  s.act (doEdgeRecord p flit)

/-- ROUND_NOTICE (R102). -/
def execRoundNotice (p : Port) (tile notice : Nat) (s : State) : Host.Outcome State Fault Refusal :=
  s.act (doRoundNotice p tile notice)

/-- ROUND (R100). -/
def execRound (p : Port) (s : State) : Host.Outcome State Fault Refusal :=
  s.act (doRound p)

/-- CISTERN_INSERT (R107). -/
def execCisternInsert (p : Port) (s : State) : Host.Outcome State Fault Refusal :=
  s.act (doCisternInsert p)

end Sys2Proof.Machine
end

