-- ==== Sys2Proof/Machine/CmdVector.lean ====
section
/-!
DEFINITION. The meanings of the commands of vector engines (chapter 8).
-/

namespace Sys2Proof.Machine

/-- VNOP (R173). -/
def execVnop (p : Port) (k : Nat) (s : State) : Host.Outcome State Fault Refusal :=
  s.act (doVnop p k)

/-- VADD (R174). -/
def execVadd (p : Port) (k : Nat) (s : State) : Host.Outcome State Fault Refusal :=
  s.act (doVadd p k)

/-- VSUB (R174). -/
def execVsub (p : Port) (k : Nat) (s : State) : Host.Outcome State Fault Refusal :=
  s.act (doVsub p k)

/-- VMUL (R174). -/
def execVmul (p : Port) (k : Nat) (s : State) : Host.Outcome State Fault Refusal :=
  s.act (doVmul p k)

/-- VFMA (R174). -/
def execVfma (p : Port) (k : Nat) (s : State) : Host.Outcome State Fault Refusal :=
  s.act (doVfma p k)

/-- VMAX (R174). -/
def execVmax (p : Port) (k : Nat) (s : State) : Host.Outcome State Fault Refusal :=
  s.act (doVmax p k)

/-- VCVT (R173). -/
def execVcvt (p : Port) (k : Nat) (s : State) : Host.Outcome State Fault Refusal :=
  s.act (doVcvt p k)

/-- VSUM (R175). -/
def execVsum (p : Port) (k : Nat) (s : State) : Host.Outcome State Fault Refusal :=
  s.act (doVsum p k)

/-- VDOT (R175). -/
def execVdot (p : Port) (k : Nat) (s : State) : Host.Outcome State Fault Refusal :=
  s.act (doVdot p k)

/-- VLN (R176). -/
def execVln (p : Port) (k : Nat) (s : State) : Host.Outcome State Fault Refusal :=
  s.act (doVln p k)

/-- VNORM (R177). -/
def execVnorm (p : Port) (k : Nat) (s : State) : Host.Outcome State Fault Refusal :=
  s.act (doVnorm p k)

/-- VNOISE (R178). -/
def execVnoise (p : Port) (k : Nat) (s : State) : Host.Outcome State Fault Refusal :=
  s.act (doVnoise p k)

/-- VRAND (R178). -/
def execVrand (p : Port) (k : Nat) (s : State) : Host.Outcome State Fault Refusal :=
  s.act (doVrand p k)

/-- VMOVE (R173). -/
def execVmove (p : Port) (k : Nat) (s : State) : Host.Outcome State Fault Refusal :=
  s.act (doVmove p k)

/-- EACC (R179). -/
def execEacc (p : Port) (k : Nat) (s : State) : Host.Outcome State Fault Refusal :=
  s.act (doEacc p k)

/-- EBLOCK (R180). -/
def execEblock (p : Port) (k : Nat) (s : State) : Host.Outcome State Fault Refusal :=
  s.act (doEblock p k)

/-- COMBINE (R181). -/
def execCombine (p : Port) (k : Nat) (s : State) : Host.Outcome State Fault Refusal :=
  s.act (doCombine p k)

/-- WUPDATE (R182). -/
def execWupdate (p : Port) (k : Nat) (s : State) : Host.Outcome State Fault Refusal :=
  s.act (doWupdate p k)

/-- CHECK_ROW (R183). -/
def execCheckRow (p : Port) (k : Nat) (s : State) : Host.Outcome State Fault Refusal :=
  s.act (doCheckRow p k)

/-- LADDER_ROUND (R449). -/
def execLadderRound (p : Port) (k : Nat) (s : State) : Host.Outcome State Fault Refusal :=
  s.act (doLadderRound p k)

end Sys2Proof.Machine
end

