-- ==== Sys2Proof/Machine/Dispatch.lean ====
section
/-!
DEFINITION. One arm per command.
-/

namespace Sys2Proof.Machine

def exec (i : Instr) (s : State) : Host.Outcome State Fault Refusal :=
  match i with
  | .takeLoad p m => Sys2Proof.Machine.execTakeLoad p m s
  | .validationDone p => Sys2Proof.Machine.execValidationDone p s
  | .writingDone p => Sys2Proof.Machine.execWritingDone p s
  | .takeGo p m => Sys2Proof.Machine.execTakeGo p m s
  | .takeAbort p m => Sys2Proof.Machine.execTakeAbort p m s
  | .takeUnload p m => Sys2Proof.Machine.execTakeUnload p m s
  | .posting p => Sys2Proof.Machine.execPosting p s
  | .occurrenceRelease p id => Sys2Proof.Machine.execOccurrenceRelease p id s
  | .reelCapture p => Sys2Proof.Machine.execReelCapture p s
  | .watchdogExpiry p id => Sys2Proof.Machine.execWatchdogExpiry p id s
  | .stepClapperRelease p => Sys2Proof.Machine.execStepClapperRelease p s
  | .frameEnd p => Sys2Proof.Machine.execFrameEnd p s
  | .nop p k => Sys2Proof.Machine.execNop p k s
  | .endScript p k => Sys2Proof.Machine.execEndScript p k s
  | .clap p k => Sys2Proof.Machine.execClap p k s
  | .clapCut p k => Sys2Proof.Machine.execClapCut p k s
  | .clapEarly p k => Sys2Proof.Machine.execClapEarly p k s
  | .loop p k => Sys2Proof.Machine.execLoop p k s
  | .mark p k => Sys2Proof.Machine.execMark p k s
  | .waitSem p k => Sys2Proof.Machine.execWaitSem p k s
  | .postSem p k => Sys2Proof.Machine.execPostSem p k s
  | .fetchSvc p k => Sys2Proof.Machine.execFetchSvc p k s
  | .fieldInit p k => Sys2Proof.Machine.execFieldInit p k s
  | .sweep p k => Sys2Proof.Machine.execSweep p k s
  | .sweepSync p k => Sys2Proof.Machine.execSweepSync p k s
  | .sampleTap p k => Sys2Proof.Machine.execSampleTap p k s
  | .stateInit p k => Sys2Proof.Machine.execStateInit p k s
  | .trueInit p k => Sys2Proof.Machine.execTrueInit p k s
  | .sampleTrue p k => Sys2Proof.Machine.execSampleTrue p k s
  | .stripSend p k dsts fmt => Sys2Proof.Machine.execStripSend p k dsts fmt s
  | .energyShare p k => Sys2Proof.Machine.execEnergyShare p k s
  | .reduceSend p k => Sys2Proof.Machine.execReduceSend p k s
  | .deltaFlit p payload => Sys2Proof.Machine.execDeltaFlit p payload s
  | .gateDelta p flit => Sys2Proof.Machine.execGateDelta p flit s
  | .edgeRecord p flit => Sys2Proof.Machine.execEdgeRecord p flit s
  | .fieldStrip p u entry => Sys2Proof.Machine.execFieldStrip p u entry s
  | .stateStrip p u base row rows cols fmt => Sys2Proof.Machine.execStateStrip p u base row rows cols fmt s
  | .roundNotice p tile notice => Sys2Proof.Machine.execRoundNotice p tile notice s
  | .round p => Sys2Proof.Machine.execRound p s
  | .cisternInsert p => Sys2Proof.Machine.execCisternInsert p s
  | .mma p k => Sys2Proof.Machine.execMma p k s
  | .mmaFlip p k => Sys2Proof.Machine.execMmaFlip p k s
  | .mmaOuter p k => Sys2Proof.Machine.execMmaOuter p k s
  | .drain p k => Sys2Proof.Machine.execDrain p k s
  | .fieldSet p k dsts => Sys2Proof.Machine.execFieldSet p k dsts s
  | .fieldDiff p k dsts => Sys2Proof.Machine.execFieldDiff p k dsts s
  | .load p k => Sys2Proof.Machine.execLoad p k s
  | .store p k => Sys2Proof.Machine.execStore p k s
  | .setGroups p k => Sys2Proof.Machine.execSetGroups p k s
  | .vnop p k => Sys2Proof.Machine.execVnop p k s
  | .vadd p k => Sys2Proof.Machine.execVadd p k s
  | .vsub p k => Sys2Proof.Machine.execVsub p k s
  | .vmul p k => Sys2Proof.Machine.execVmul p k s
  | .vfma p k => Sys2Proof.Machine.execVfma p k s
  | .vmax p k => Sys2Proof.Machine.execVmax p k s
  | .vcvt p k => Sys2Proof.Machine.execVcvt p k s
  | .vsum p k => Sys2Proof.Machine.execVsum p k s
  | .vdot p k => Sys2Proof.Machine.execVdot p k s
  | .vln p k => Sys2Proof.Machine.execVln p k s
  | .vnorm p k => Sys2Proof.Machine.execVnorm p k s
  | .vnoise p k => Sys2Proof.Machine.execVnoise p k s
  | .vrand p k => Sys2Proof.Machine.execVrand p k s
  | .vmove p k => Sys2Proof.Machine.execVmove p k s
  | .eacc p k => Sys2Proof.Machine.execEacc p k s
  | .eblock p k => Sys2Proof.Machine.execEblock p k s
  | .combine p k => Sys2Proof.Machine.execCombine p k s
  | .wupdate p k => Sys2Proof.Machine.execWupdate p k s
  | .checkRow p k => Sys2Proof.Machine.execCheckRow p k s
  | .ladderRound p k => Sys2Proof.Machine.execLadderRound p k s
  | .phase p k => Sys2Proof.Machine.execPhase p k s
  | .cut p k => Sys2Proof.Machine.execCut p k s
  | .watchdog p k => Sys2Proof.Machine.execWatchdog p k s
  | .meshFlit c r beat ins wait => Sys2Proof.Machine.execMeshFlit c r beat ins wait s
  | .serviceRequest u q reqs beat => Sys2Proof.Machine.execServiceRequest u q reqs beat s
  | .arbiterDecision u q beat => Sys2Proof.Machine.execArbiterDecision u q beat s
  | .revocation u q beat => Sys2Proof.Machine.execRevocation u q beat s
  | .withdrawal u q beat => Sys2Proof.Machine.execWithdrawal u q beat s
  | .burstExpiry u q beat => Sys2Proof.Machine.execBurstExpiry u q beat s
  | .bankOwnerWrite w c b v => Sys2Proof.Machine.execBankOwnerWrite w c b v s
  | .handoverComplete c b => Sys2Proof.Machine.execHandoverComplete c b s
  | .bankPowerRequest w c b req => Sys2Proof.Machine.execBankPowerRequest w c b req s
  | .bankTransitionDone c b => Sys2Proof.Machine.execBankTransitionDone c b s
  | .sramAccess who addr len data e => Sys2Proof.Machine.execSramAccess who addr len data e s
  | .mergeWrite c b => Sys2Proof.Machine.execMergeWrite c b s
  | .testRegion c e => Sys2Proof.Machine.execTestRegion c e s
  | .testSkipBank c => Sys2Proof.Machine.execTestSkipBank c s
  | .vaultAccess who addr len data e member beat => Sys2Proof.Machine.execVaultAccess who addr len data e member beat s
  | .refresh v delayed => Sys2Proof.Machine.execRefresh v delayed s
  | .layerSensorReading c layer temp => Sys2Proof.Machine.execLayerSensorReading c layer temp s
  | .scrubLine v e => Sys2Proof.Machine.execScrubLine v e s
  | .vaultClear w v => Sys2Proof.Machine.execVaultClear w v s
  | .vaultClearDone v => Sys2Proof.Machine.execVaultClearDone v s
  | .lockRequest vault c n a => Sys2Proof.Machine.execLockRequest vault c n a s
  | .doorbell p well value => Sys2Proof.Machine.execDoorbell p well value s
  | .programStart n waited => Sys2Proof.Machine.execProgramStart n waited s
  | .move n => Sys2Proof.Machine.execMove n s
  | .fill n => Sys2Proof.Machine.execFill n s
  | .compare n => Sys2Proof.Machine.execCompare n s
  | .pumpLoop n => Sys2Proof.Machine.execPumpLoop n s
  | .wait n => Sys2Proof.Machine.execWait n s
  | .waitConditionMet x => Sys2Proof.Machine.execWaitConditionMet x s
  | .waitTimeout n => Sys2Proof.Machine.execWaitTimeout n s
  | .signal n => Sys2Proof.Machine.execSignal n s
  | .pumpEnd n => Sys2Proof.Machine.execPumpEnd n s
  | .pumpFault n cause dir space addr again => Sys2Proof.Machine.execPumpFault n cause dir space addr again s
  | .stop w well => Sys2Proof.Machine.execStop w well s
  | .resume w well => Sys2Proof.Machine.execResume w well s
  | .skip w well => Sys2Proof.Machine.execSkip w well s
  | .wellCfgWrite w well v => Sys2Proof.Machine.execWellCfgWrite w well v s
  | .cringCfgWrite w ring v => Sys2Proof.Machine.execCringCfgWrite w ring v s
  | .cringHeadWrite w ring head => Sys2Proof.Machine.execCringHeadWrite w ring head s
  | .bar2Read p off n => Sys2Proof.Machine.execBar2Read p off n s
  | .bar2Write p off data badEcrc => Sys2Proof.Machine.execBar2Write p off data badEcrc s
  | .registerWrite w bar4 addr n v => Sys2Proof.Machine.execRegisterWrite w bar4 addr n v s
  | .counterLowRead w bar4 addr n => Sys2Proof.Machine.execCounterLowRead w bar4 addr n s
  | .readClear w addr n => Sys2Proof.Machine.execReadClear w addr n s
  | .cntClear w ty inst => Sys2Proof.Machine.execCntClear w ty inst s
  | .errClear w ty inst => Sys2Proof.Machine.execErrClear w ty inst s
  | .retryClear w ty inst => Sys2Proof.Machine.execRetryClear w ty inst s
  | .errStatusWrite w ty inst v => Sys2Proof.Machine.execErrStatusWrite w ty inst v s
  | .errInject w ty inst mode => Sys2Proof.Machine.execErrInject w ty inst mode s
  | .debugRead w q => Sys2Proof.Machine.execDebugRead w q s
  | .genGo w p ctrl => Sys2Proof.Machine.execGenGo w p ctrl s
  | .genEvalDone p => Sys2Proof.Machine.execGenEvalDone p s
  | .reelVerify p => Sys2Proof.Machine.execReelVerify p s
  | .restore p fails => Sys2Proof.Machine.execRestore p fails s
  | .keygen p => Sys2Proof.Machine.execKeygen p s
  | .keyload p => Sys2Proof.Machine.execKeyload p s
  | .keyclear p => Sys2Proof.Machine.execKeyclear p s
  | .bist w p => Sys2Proof.Machine.execBist w p s
  | .reload w p => Sys2Proof.Machine.execReload w p s
  | .substitution => Sys2Proof.Machine.execSubstitution s
  | .apply w => Sys2Proof.Machine.execApply w s
  | .copy w => Sys2Proof.Machine.execCopy w s
  | .planApplied => Sys2Proof.Machine.execPlanApplied s
  | .hostIfaceReq w p low high => Sys2Proof.Machine.execHostIfaceReq w p low high s
  | .devIdWrite w v => Sys2Proof.Machine.execDevIdWrite w v s
  | .budgetRequest w reg v => Sys2Proof.Machine.execBudgetRequest w reg v s
  | .sluShareWrite w v => Sys2Proof.Machine.execSluShareWrite w v s
  | .vcoreSet w mv => Sys2Proof.Machine.execVcoreSet w mv s
  | .throttleDecision ty inst est total => Sys2Proof.Machine.execThrottleDecision ty inst est total s
  | .throttleStepDown ty inst => Sys2Proof.Machine.execThrottleStepDown ty inst s
  | .coreWideThrottle ty inst total => Sys2Proof.Machine.execCoreWideThrottle ty inst total s
  | .coreWideRelease total => Sys2Proof.Machine.execCoreWideRelease total s
  | .droop mv => Sys2Proof.Machine.execDroop mv s
  | .droopRelease mv => Sys2Proof.Machine.execDroopRelease mv s
  | .thermalFactor temps => Sys2Proof.Machine.execThermalFactor temps s
  | .thermalTrip column temp => Sys2Proof.Machine.execThermalTrip column temp s
  | .rawSample c sample => Sys2Proof.Machine.execRawSample c sample s
  | .startupTestDone c => Sys2Proof.Machine.execStartupTestDone c s
  | .kat fail again => Sys2Proof.Machine.execKat fail again s
  | .entRingCfgWrite w p u v => Sys2Proof.Machine.execEntRingCfgWrite w p u v s
  | .entRingTail w p u tail => Sys2Proof.Machine.execEntRingTail w p u tail s
  | .entRequestServe p u entry hostErr => Sys2Proof.Machine.execEntRequestServe p u entry hostErr s
  | .trngRawRead w p => Sys2Proof.Machine.execTrngRawRead w p s
  | .fwWrite w => Sys2Proof.Machine.execFwWrite w s
  | .fwVerify w => Sys2Proof.Machine.execFwVerify w s
  | .activate w => Sys2Proof.Machine.execActivate w s
  | .cancel w => Sys2Proof.Machine.execCancel w s
  | .activationStart alive => Sys2Proof.Machine.execActivationStart alive s
  | .revert => Sys2Proof.Machine.execRevert s
  | .portReset p e u => Sys2Proof.Machine.execPortReset p e u s
  | .wholeDeviceReset t u => Sys2Proof.Machine.execWholeDeviceReset t u s
  | .powerUp u => Sys2Proof.Machine.execPowerUp u s
  | .powerDown => Sys2Proof.Machine.execPowerDown s
  | .inputFault => Sys2Proof.Machine.execInputFault s
  | .inputRestored u => Sys2Proof.Machine.execInputRestored u s
  | .regRead addr count => Sys2Proof.Machine.execRegRead addr count s
  | .regWrite addr words => Sys2Proof.Machine.execRegWrite addr words s
  | .reset u => Sys2Proof.Machine.execReset u s
  | .pldmSensorRead sensor sensed => Sys2Proof.Machine.execPldmSensorRead sensor sensed s
  | .pldmFirmwareUpdate x => Sys2Proof.Machine.execPldmFirmwareUpdate x s
  | .touch k ms => Sys2Proof.Machine.execTouch k ms s
  | .attentionButton k => Sys2Proof.Machine.execAttentionButton k s
  | .undrain w u => Sys2Proof.Machine.execUndrain w u s
  | .linkDrained u => Sys2Proof.Machine.execLinkDrained u s
  | .cableInsert k osfp8 power ident => Sys2Proof.Machine.execCableInsert k osfp8 power ident s
  | .cableReady k fault => Sys2Proof.Machine.execCableReady k fault s
  | .cableRemoved k => Sys2Proof.Machine.execCableRemoved k s
  | .retrain w u => Sys2Proof.Machine.execRetrain w u s
  | .recal w u => Sys2Proof.Machine.execRecal w u s
  | .linkTrained u dev plink offer family => Sys2Proof.Machine.execLinkTrained u dev plink offer family s
  | .linkTrainFail u => Sys2Proof.Machine.execLinkTrainFail u s
  | .linkTrainRetry u => Sys2Proof.Machine.execLinkTrainRetry u s
  | .linkTransmit u wait => Sys2Proof.Machine.execLinkTransmit u wait s
  | .linkControlWord u word c0 c1 => Sys2Proof.Machine.execLinkControlWord u word c0 c1 s
  | .linkFlitError u seq uncorr wait => Sys2Proof.Machine.execLinkFlitError u seq uncorr wait s
  | .linkScheduledFlit u flit => Sys2Proof.Machine.execLinkScheduledFlit u flit s
  | .recoveryFlit l seq vc body => Sys2Proof.Machine.execRecoveryFlit l seq vc body s
  | .forkRelease q flow => Sys2Proof.Machine.execForkRelease q flow s
  | .mcastStall q flow => Sys2Proof.Machine.execMcastStall q flow s
  | .arrive u flit => Sys2Proof.Machine.execArrive u flit s
  | .release u flit => Sys2Proof.Machine.execRelease u flit s
  | .clapStop u flit => Sys2Proof.Machine.execClapStop u flit s
  | .serviceWrite u flit => Sys2Proof.Machine.execServiceWrite u flit s
  | .readRequest u flit => Sys2Proof.Machine.execReadRequest u flit s
  | .readResponse u flit => Sys2Proof.Machine.execReadResponse u flit s
  | .errorResponse u flit => Sys2Proof.Machine.execErrorResponse u flit s
  | .linkManagement u flit drain => Sys2Proof.Machine.execLinkManagement u flit drain s
  | .lossOfSignal u => Sys2Proof.Machine.execLossOfSignal u s
  | .pcieLinkUp p rate width flit ecrc bar2 => Sys2Proof.Machine.execPcieLinkUp p rate width flit ecrc bar2 s
  | .perstRelease p => Sys2Proof.Machine.execPerstRelease p s
  | .powerStateChange p d3 => Sys2Proof.Machine.execPowerStateChange p d3 s
  | .hostCompletion n u status data => Sys2Proof.Machine.execHostCompletion n u status data s
  | .captureDone p => Sys2Proof.Machine.execCaptureDone p s
  | .reelCommandDone p => Sys2Proof.Machine.execReelCommandDone p s
  | .repairCommandDone p pass => Sys2Proof.Machine.execRepairCommandDone p pass s
  | .substitutionDone pass => Sys2Proof.Machine.execSubstitutionDone pass s
  | .fwCommandDone flashErr => Sys2Proof.Machine.execFwCommandDone flashErr s
  | .recalibrationDone u => Sys2Proof.Machine.execRecalibrationDone u s
  | .debugUartInput b => Sys2Proof.Machine.execDebugUartInput b s

end Sys2Proof.Machine
end

