-- ==== Sys2Proof/Safety.lean ====
section
/-!
DEFINITION. What counts as a sound state, in the terms the statements use.
-/

namespace Sys2Proof.Machine

/-- Registers that show what another register holds agree with it: DEV_STATUS.service and releasing (R442),
CC_STATUS.activating, and CLAP_PART with the plan in force (R217, R447). -/
def Dev.Mirrors (d : Dev) : Prop :=
  d.rd .ident 0x100 6 = (d.rdBool (.rep 0) 0x104 1 || d.rdBool (.rep 1) 0x104 1).toNat ∧
  d.rd .ident 0x100 7 = (d.rdBool .entCell 0x104 8).toNat ∧
  d.rd .cc 0x104 4 = (d.rdBool .fw 0x104 1).toNat ∧
  d.rd .clap 0x104 0 = d.rd .part 0x1A0 0 ∧ d.rd .clap 0x104 8 = d.rd .part 0x1A0 8 ∧
  d.rd .clap 0x104 16 = d.rd .part 0x1A0 16 ∧ d.rd .clap 0x104 24 = d.rd .part 0x1A0 24

/-- Memory and registers keep their canonical form, every register field holds a value the spec lets it hold (R13),
and the mirrors agree. -/
def State.Sound (s : State) : Prop :=
  memWf s.dev.mem.cells = true ∧ regsWf s.dev.regs.cells = true ∧ s.dev.Mirrors

/-- What a command starts from: the response and the outputs of the command before it are gone. -/
def Dev.quiet (d : Dev) : Dev := { d with out := [], resp := .none, beatErrs := none }

/-- Every register field is as it was, but for the fields with the keys `ks`. -/
def Dev.KeepsRegs (d e : Dev) (ks : List Nat) : Prop := ∀ k, k ∉ ks → e.regs.get k = d.regs.get k

/-- Every byte of memory is as it was, but for the `n` bytes from `a`. -/
def Dev.KeepsMem (d e : Dev) (a n : Nat) : Prop := ∀ b, b < a ∨ a + n ≤ b → e.mem.get b = d.mem.get b

/-- Two ranges of memory have no byte in common. -/
def apart (a n b m : Nat) : Prop := a + n ≤ b ∨ b + m ≤ a

/-- A command answers a next state, and the queue is as it was. -/
def Completes (c : Instr) (s : State) : Prop := ∃ t, exec c s = .next t ∧ t.pending = s.pending

/-- The same, with what holds of the device afterwards. -/
def Makes (c : Instr) (s : State) (post : Dev → Prop) : Prop :=
  ∃ e : Dev, exec c s = .next { s with dev := e } ∧ post e

/-- Member k of a running take may execute its next instruction, the word `w`, and no fault has made what the take wrote
undefined (R21). -/
def Dev.due (d : Dev) (p : Port) (k : Nat) (m : Member) (w : Nat) : Prop := d.ready p k = some (m, w) ∧ d.calm p = true

/-- A host port that is up: link trained, in D0, and the device ready (R321, R333). -/
def Dev.hostUp (d : Dev) (p : Port) : Prop :=
  d.rdBool (hpPage p) 0x104 0 = true ∧ (d.port p).d3 = false ∧ d.rdBool .ident 0x100 0 = true

/-- A writer may write a register of a page now: it is the writer's to write (R323, R422), the page is there, and, for
a host, its port is up and no running take closes the register. -/
def Dev.canWrite (d : Dev) (w : Writer) (pg : Page) (o : Nat) : Prop :=
  d.gate w (pg.base + o) pg o = .pass ∧ d.gone pg o = false ∧
  match w with
  | .host p => d.hostUp p ∧ d.takeLocked pg o = none
  | .sideband => d.powered = true

/-- A power-up that reaches stage 12: the record's factory section verifies, and a firmware slot boots (R396, R398). -/
def Dev.boots (d : Dev) (u : PowerUp) : Prop := u.factoryOk = true ∧ d.bootSlot ≠ none

/-- Link i takes a flit: it carries flits, none is made to fail, and the flit comes in order, whole, with no reserved
code (R298, R300). -/
def Dev.takesFlit (d : Dev) (i flit : Nat) : Prop :=
  d.linkCarries i = true ∧ flitIdle flit = false ∧ d.rd (.link i) 0x024 0 = 0 ∧ flitCrcOk flit = true ∧
  flitReserved flit = false ∧ flitSeq flit = ((d.link i).rxSeq + 1) % 256

/-- A control flit with operation `op` that link i takes, while the device has its number (R299, R443). -/
def Dev.takesService (d : Dev) (i flit op : Nat) : Prop :=
  d.takesFlit i flit ∧ flitVc flit = vcCtl ∧ bits (bodySeg (flitBody flit) 0) 0 4 = op ∧
  d.rdBool .ident 0x10C 16 = true

/-- A clapper message of a kind that link i takes for this device and its running take `p` (R308). -/
def Dev.takesClap (d : Dev) (i flit kind : Nat) (p : Port) : Prop :=
  d.takesFlit i flit ∧ flitVc flit = vcClap ∧ bits (bodySeg (flitBody flit) 0) 6 2 = kind ∧
  d.rdBool .ident 0x10C 16 = true ∧ d.legacy i = false ∧ bodyDst (flitBody flit) = d.devId ∧
  d.msgTake i (bits (bodySeg (flitBody flit) 1) 0 64) = some p

/-- Flits take the next positions of link `i`, whose state is `l`: what the link puts out, two flits and the control word
of the moment to a codeword, and the link's state after them (R296, R297). -/
def LinkSt.sends (i : Nat) (l : LinkSt) : List Nat → List Out × LinkSt
  | [] => ([], l)
  | f :: fs =>
    let flit := Out.linkFlit i (flitVc f) (bodyFlow (flitBody f)) f
    match l.half with
    | none =>
      let r := { l with half := some f }.sends i fs
      (flit :: r.1, r.2)
    | some a =>
      let r := { l with half := none, due := 0 }.sends i fs
      (flit :: .codeword i (mkCodeword l.word a f) :: r.1, r.2)

/-- The device as a 32-bit write of a host reaches its register: the port has counted its bytes. -/
def Dev.reached (d : Dev) (p : Port) : Dev := d.quiet.bump (hpPage p) 0x040 4

end Sys2Proof.Machine
end

