-- ==== Sys2Proof/Certificates/Slice0/Obligations.lean ====
section
/-!
DEFINITION. The statements: what the commands do, what each leaves unchanged, and what every step keeps.
-/

open Sys2Proof Sys2Proof.Machine

/-! ### The queue, the registers, memory -/

/-- The queue is first in, first out: a step runs the command at its front with the queue's rest; with nothing waiting the
block idles (the idle step is the model's choice, log 2). No command changes the queue, faults or is refused. -/
def Obligations.StepRunsFront : Prop :=
  (∀ (c : Instr) (s : State), step { s with pending := c :: s.pending } = exec c s) ∧
  (∀ s : State, s.pending = [] → step s = .next s) ∧
  ∀ (c : Instr) (s : State), Completes c s

/-- Every step keeps memory and registers in their canonical form, every register field at a value the spec lets it hold
(R13), and the mirroring registers in agreement. -/
def Obligations.StepKeepsSound : Prop :=
  ∀ s t : State, s.Sound → step s = .next t → t.Sound

/-- The state after reset is sound, its queue is empty, no take is loaded and the device is not ready (R14, R211). -/
def Obligations.ResetSound : Prop :=
  State.reset.Sound ∧ State.reset.pending = [] ∧ State.reset.dev.takeState .a = 0 ∧ State.reset.dev.takeState .b = 0 ∧
  State.reset.dev.rd .ident 0x100 0 = 0

/-- In every state, every register field holds a legal value, or its reset value where it lies in no register: so a
reserved code is never in force (R13). -/
def Obligations.FieldsLegal : Prop :=
  ∀ (d : Dev) (pg : Page) (o lo v : Nat),
    (regLegal (fieldKey (pg.base + o) lo) (d.rd pg o lo) = true ∨
      d.rd pg o lo = resetVal (fieldKey (pg.base + o) lo)) ∧
    (regLegal (fieldKey (pg.base + o) lo) v = false → d.wr pg o lo v = d) ∧
    (regLegal (fieldKey (pg.base + o) lo) v = true →
      (d.wr pg o lo v).rd pg o lo = v ∧ d.KeepsRegs (d.wr pg o lo v) [fieldKey (pg.base + o) lo])

/-- Bytes written inside the local address map read back as written, in their order, and every byte outside keeps its
value. Elements narrower than a byte are packed from bit 0 upward: one of 1 bit in a byte, of 4 bits in a nibble, of 6
bits in a little-endian group of three bytes (R51). Elements of every width read back as written and leave every other
element alone. -/
def Obligations.MemoryReadsBack : Prop :=
  (∀ (d : Dev) (a : Nat) (bs : List Byte), a + bs.length ≤ localSpace →
    (d.putBytes a bs).bytes a bs.length = bs ∧ d.KeepsMem (d.putBytes a bs) a bs.length ∧
    memWf (d.putBytes a bs).mem.cells = true) ∧
  (∀ (d : Dev) (base k : Nat) (f : Fmt),
    (f = .spin1 → d.elem base f.width k = (d.mem.get (base + k / 8)).toNat / 2 ^ (k % 8) % 2) ∧
    (f ∈ [.i4, .e2m1, .state4] → d.elem base f.width k = (d.mem.get (base + k / 2)).toNat / 2 ^ (4 * (k % 2)) % 2 ^ 4) ∧
    (f ∈ [.e3m2, .e2m3] → d.elem base f.width k = ((d.mem.get (base + 3 * (k / 4))).toNat +
      2 ^ 8 * (d.mem.get (base + 3 * (k / 4) + 1)).toNat + 2 ^ 16 * (d.mem.get (base + 3 * (k / 4) + 2)).toNat) /
        2 ^ (6 * (k % 4)) % 2 ^ 6)) ∧
  ∀ (d : Dev) (base w k j v : Nat), w ∈ [1, 2, 4, 6, 8, 16, 32, 64] → base + (max j k + 4) * 8 ≤ localSpace →
    (d.putElem base w k v).elem base w k = v % 2 ^ w ∧
    (j ≠ k → (d.putElem base w k v).elem base w j = d.elem base w j)

/-! ### Common script instructions (R191) -/

/-- NOP idles n beats; LOOP opens its body; MARK adds m phase marks and takes one beat; POST_SEM adds its value to the
semaphore, which stays at 2^32 − 1 beyond that, and takes one beat. Nothing else changes, but that a tile shows its new
step count in STEP_NOW after a MARK (R82). A LOOP whose body has run
with passes left runs it again; after the last pass the script goes on after the body. -/
def Obligations.CommonInstructions : Prop :=
  (∀ (s : State) (p : Port) (k : Nat) (m : Member) (w : Nat), s.dev.Mirrors → s.dev.due p k m w →
    (opcodeOf w = 0x00 → (m.page.isEngine || m.page.isClap) = true →
      exec (.nop p k) s = .next { s with
        dev := (s.dev.quiet.setMember p k (m.next (bits w 0 32))).countInstr m.page 0 }) ∧
    (opcodeOf w = 0x05 → (m.page.isEngine || m.page.isClap) = true →
      exec (.loop p k) s = .next { s with
        dev := (s.dev.quiet.setMember p k { m with
          pc := m.pc + 1, loops := ⟨m.pc + 1, bits w 32 16, bits w 0 32⟩ :: m.loops }).countInstr m.page 0 }) ∧
    (opcodeOf w = 0x06 → m.page.isEngine = true →
      exec (.mark p k) s = .next { s with
        dev := ((s.dev.quiet.showStep m.page ((m.step + bits w 0 32) % 2 ^ 48)).setMember p k
          ({ m with step := (m.step + bits w 0 32) % 2 ^ 48 }.next 1)).countInstr m.page 0 }) ∧
    (opcodeOf w = 0x08 → m.page.isEngine = true →
      exec (.postSem p k) s = .next { s with
        dev := ((s.dev.quiet.wr (.sem (bits w 0 16)) 0 0
          (min (s.dev.sem (bits w 0 16) + bits w 16 32) (2 ^ 32 - 1))).setMember p k (m.next 1)).countInstr m.page 0 })) ∧
  (∀ (m : Member) (start len left n : Nat) (ls : List LoopRec), m.loops = ⟨start, len, left⟩ :: ls →
    m.pc + 1 = start + len →
    (1 < left → (m.next n).pc = start ∧ (m.next n).loops = ⟨start, len, left - 1⟩ :: ls ∧
      (m.next n).beats = m.beats + n) ∧
    (left ≤ 1 → ls = [] → (m.next n).pc = start + len ∧ (m.next n).loops = [] ∧ (m.next n).beats = m.beats + n))

/-- CLAP, CLAP_CUT and CLAP_EARLY arrive at the identifier their word names, END at the last of the partition's range
(R191, R199): the member executes nothing more until the release, the pending bit rises, and nothing else changes but
the instruction count of a vector engine at END. The pending bit of CLAP_PEND_LO (R217): identifier i of the device is
pending after an arrival at it. -/
def Obligations.ClapsArrive : Prop :=
  (∀ (s : State) (p : Port) (k : Nat) (m : Member) (w : Nat), s.dev.Mirrors → s.dev.due p k m w →
    (∀ c op, (c, op) ∈ [(Instr.clap p k, 0x02), (.clapCut p k, 0x03), (.clapEarly p k, 0x04)] → opcodeOf w = op →
      m.page.isEngine = true →
      exec c s = .next { s with
        dev := (s.dev.quiet.setMember p k { m with arrived := some (bits w 0 6) }).setPend p (bits w 0 6) true } ∧
      ((s.dev.quiet.setMember p k { m with arrived := some (bits w 0 6) }).setPend p (bits w 0 6) true).ready p k =
        none) ∧
    (opcodeOf w = 0x01 → (m.page.isEngine || m.page.isClap) = true →
      exec (.endScript p k) s = .next { s with
        dev := ((s.dev.quiet.setMember p k { m with arrived := some (s.dev.endId p) }).setPend p
          (s.dev.endId p) true).countInstr m.page 0 })) ∧
  (∀ (d : Dev) (p : Port) (id : Nat) (b : Bool), (d.clapRange p).1 + id < 32 →
    bit ((d.setPend p id b).rd .clap 0x108 0) ((d.clapRange p).1 + id) = b ∧
    ∀ j, j < 32 → j ≠ (d.clapRange p).1 + id →
      bit ((d.setPend p id b).rd .clap 0x108 0) j = bit (d.rd .clap 0x108 0) j)

/-- WAIT_SEM: with the semaphore at its value or above the script goes on, after beats the spec does not fix; below it the
member waits, and WAIT_CONDITION_MET lets it go on once the value is reached. FETCH_SVC copies its lines into the
block's own memory, takes n/2 + 16 beats, rounded up, and changes nothing else; from a vault that is being cleared it
copies all ones in place of that vault's bytes (R238). -/
def Obligations.WaitsAndFetches : Prop :=
  (∀ (s : State) (p : Port) (k : Nat) (m : Member) (w : Nat), s.dev.Mirrors →
    (s.dev.due p k m w → opcodeOf w = 0x07 → m.page.isEngine = true →
      (bits w 16 32 ≤ s.dev.sem (bits w 0 16) →
        ∃ n, exec (.waitSem p k) s = .next { s with
          dev := (s.dev.quiet.fresh.2.setMember p k (m.next n)).countInstr m.page 0 }) ∧
      (s.dev.sem (bits w 0 16) < bits w 16 32 →
        exec (.waitSem p k) s = .next { s with dev := s.dev.quiet.setMember p k { m with waiting := true } })) ∧
    (s.dev.member p k = some m → m.waiting = true → w = s.dev.scriptWord (s.dev.take p) m m.pc → opcodeOf w = 0x07 →
      bits w 16 32 ≤ s.dev.sem (bits w 0 16) →
      ∃ n, exec (.waitConditionMet (.member p k)) s = .next { s with
        dev := (s.dev.quiet.fresh.2.setMember p k ({ m with waiting := false }.next n)).countInstr m.page 0 })) ∧
  (∀ (s : State) (p : Port) (k : Nat) (m : Member) (w : Nat), s.dev.Mirrors → s.dev.due p k m w →
    opcodeOf w = 0x09 → m.page.isEngine = true → 0 < bits w 80 16 →
    m.page.ownMem + 64 * bits w 48 32 + 64 * bits w 80 16 ≤ localSpace →
    s.dev.clearingIn (bits w 0 38) (64 * bits w 80 16) = [] →
    Makes (.fetchSvc p k) s fun e =>
      e.bytes (m.page.ownMem + 64 * bits w 48 32) (64 * bits w 80 16) = s.dev.bytes (bits w 0 38) (64 * bits w 80 16) ∧
      s.dev.KeepsMem e (m.page.ownMem + 64 * bits w 48 32) (64 * bits w 80 16) ∧
      e.member p k = some (m.next ((bits w 80 16 + 1) / 2 + 16)) ∧ e.take p.other = s.dev.take p.other ∧
      (m.page.isVe = false → e.regs = s.dev.regs)) ∧
  (∀ (s : State) (p : Port) (k v : Nat) (m : Member) (w : Nat), s.dev.due p k m w → opcodeOf w = 0x09 →
    m.page.isEngine = true → 0 < bits w 80 16 →
    m.page.ownMem + 64 * bits w 48 32 + 64 * bits w 80 16 ≤ localSpace → v < 512 → s.dev.vaultField v 4 0 = 1 →
    bits w 0 38 / 2 ^ 27 = v → (bits w 0 38 + 64 * bits w 80 16 - 1) / 2 ^ 27 = v →
    Makes (.fetchSvc p k) s fun e =>
      e.bytes (m.page.ownMem + 64 * bits w 48 32) (64 * bits w 80 16) = List.replicate (64 * bits w 80 16) 0xFF ∧
      (s.dev.rd (vaultPage v) 0x01C 0 = 0 → e.rd (vaultPage v) 0x018 0 = 1) ∧
      e.member p k = some (m.next ((bits w 80 16 + 1) / 2 + 16)))

/-! ### Sampling tiles (R192 to R195) -/

/-- FIELD_INIT starts: the member is in the instruction with its planned frame, and no other member, nor the other
partition's take, is touched. In lattice mode nothing else happens until its frame ends. SWEEP, SWEEP_SYNC and
SAMPLE_TRUE (the last with its DRBG instance READY) start their first step at the member's step count: they remember
the changes they made, each of an unclamped variable, and, but for SWEEP_SYNC, of the colour that is active in its
replica (R54, R77). No other member is touched. A SWEEP before FIELD_INIT raises MODEL_NO_INIT in its tile (R65, R83):
the take is to stop as a model fault. -/
def Obligations.SweepsStart : Prop :=
  (∀ (s : State) (p : Port) (k σ : Nat) (m : Member) (w : Nat), s.dev.Mirrors → s.dev.due p k m w →
    opcodeOf w = 0x40 → m.page = .tile σ →
    ((s.dev.take p).cs.lattice = true →
      exec (.fieldInit p k) s = .next { s with
        dev := s.dev.quiet.setMember p k { m with sweep := some { sweepOf 0x40 w with left := 1, half := 2 } } }) ∧
    ((s.dev.take p).cs.lattice = false → Makes (.fieldInit p k) s fun e =>
      e.member p k = some { m with sweep := some { sweepOf 0x40 w with left := 1, half := 1 } } ∧
      (∀ j, j ≠ k → e.member p j = s.dev.member p j) ∧ e.take p.other = s.dev.take p.other)) ∧
  (∀ (s : State) (p : Port) (k σ op : Nat) (c : Instr) (m : Member) (w : Nat), s.dev.Mirrors →
    (c, op) ∈ [(Instr.sweep p k, 0x41), (.sweepSync p k, 0x42), (.sampleTrue p k, 0x46)] →
    s.dev.due p k m w → opcodeOf w = op → m.page = .tile σ → σ < 144 → m.step < 2 ^ 48 →
    s.dev.rd (.tile σ) 0x024 0 = 0 →
    (op = 0x46 → s.dev.rd .entCell 0x110 (2 * p.idx) = 1) → s.dev.rdBool (.tile σ) 0x104 1 = true →
    (s.dev.take p).cs.lattice = false →
    Makes c s fun e => ∃ fl : List Flip,
      e.member p k = some { m with sweep := some { sweepOf op w with
        flips := fl, half := if op = 0x42 then 0 else 1 } } ∧
      (∀ f ∈ fl, f.v < (s.dev.tileCtx p σ).vars ∧ f.r < (s.dev.tileCtx p σ).reps ∧ f.old ≠ f.new ∧
        ((s.dev.tileCtx p σ).desc s.dev f.v).clamp = false ∧
        (op ≠ 0x42 → ((s.dev.tileCtx p σ).desc s.dev f.v).colour = (s.dev.tileCtx p σ).active m.step f.r)) ∧
      (∀ j, j ≠ k → e.member p j = s.dev.member p j) ∧ e.take p.other = s.dev.take p.other ∧
      e.rd64 (.tile σ) 0x140 = m.step) ∧
  (∀ (s : State) (p : Port) (k σ : Nat) (m : Member) (w : Nat), s.dev.due p k m w → opcodeOf w = 0x41 →
    m.page = .tile σ → σ < 144 → s.dev.rdBool (.tile σ) 0x104 1 = false → s.dev.rd (.tile σ) 0x020 24 = 0 →
    Makes (.sweep p k) s fun e =>
      e.rd (.tile σ) 0x018 2 = 1 ∧ e.rd (.tile σ) 0x020 24 = 0x15 ∧ e.rd (.tile σ) 0x020 0 = 0 ∧
      (e.take p).stops.model = true)

/-- STATE_INIT, TRUE_INIT and ENERGY_SHARE of the replicas their list names, or of all (0xFFFF), go on after their beats:
STATE_INIT of clamped variables only writes nothing, ENERGY_SHARE sends the shares of those replicas, and zeros for the
others, into its slot; REDUCE_SEND sends its words into its own. SAMPLE_TAP disarms, or arms a tap with its own operands
and the count 0 (R79, R80), and takes one beat; nothing else changes. -/
def Obligations.TileInstructionsAdvance : Prop :=
  (∀ (s : State) (p : Port) (k σ : Nat) (m : Member) (w : Nat), s.dev.Mirrors → s.dev.due p k m w →
    m.page = .tile σ →
    (∀ sel, (bits w 0 16 = 0xFFFF ∧ sel = List.range (s.dev.tileCtx p σ).reps ∨ bits w 0 16 ≠ 0xFFFF ∧
        (s.dev.tileCtx p σ).selection s.dev (bits w 0 16) = some sel) →
      (opcodeOf w = 0x44 → Makes (.stateInit p k) s fun e =>
        e.member p k = some (m.next (((s.dev.tileCtx p σ).vars * sel.length + 511) / 512 + 6)) ∧
        e.regs = s.dev.regs ∧ e.take p.other = s.dev.take p.other ∧
        ((s.dev.take p).cs.lattice = false →
          (∀ v < (s.dev.tileCtx p σ).vars, ((s.dev.tileCtx p σ).desc s.dev v).clamp = true) → e.mem = s.dev.mem)) ∧
      (opcodeOf w = 0x45 → s.dev.rd .entCell 0x110 (2 * p.idx) = 1 → Makes (.trueInit p k) s fun e =>
        ∃ n, e.member p k = some (m.next n) ∧ e.take p.other = s.dev.take p.other) ∧
      (opcodeOf w = 0x48 → Makes (.energyShare p k) s fun e =>
        e = ((s.dev.quiet.reduceSend p (s.dev.tileCtx p σ).l (bits w 16 8) false
          (padFlit ((List.range (s.dev.tileCtx p σ).reps).flatMap fun r =>
            if sel.contains r then limbs ((s.dev.tileCtx p σ).share s.dev r) else [0, 0, 0, 0]))).finish p k
          (((s.dev.tileCtx p σ).vars * sel.length + 511) / 512 + 8)))) ∧
    (opcodeOf w = 0x49 → Makes (.reduceSend p k) s fun e =>
      e = (s.dev.quiet.reduceSend p (s.dev.tileCtx p σ).l (bits w 72 8) (s.dev.redFormat p (bits w 72 8))
        ((List.range (bits w 80 16)).map fun i => s.dev.ld (tileSram σ + 64 * bits w 96 16 + 4 * i) 4)).finish p k
        (bits w 80 16 / 32))) ∧
  (∀ (s : State) (p : Port) (k σ : Nat) (m : Member) (w : Nat), s.dev.Mirrors → s.dev.due p k m w →
    opcodeOf w = 0x43 → m.page = .tile σ →
    (bit w 112 = true → exec (.sampleTap p k) s = .next { s with
      dev := (s.dev.quiet.setTile σ { s.dev.tile σ with tap := none }).setMember p k (m.next 1) }) ∧
    (∀ sel, bit w 112 = false → (s.dev.tileCtx p σ).selection s.dev (bits w 0 16) = some sel →
      exec (.sampleTap p k) s = .next { s with
        dev := (s.dev.quiet.setTile σ { s.dev.tile σ with
          tap := some ⟨bits w 80 32, 64 * bits w 48 32, bits w 32 16, 64 * bits w 16 16, sel, 0⟩ }).setMember p k
            (m.next 1) }))

/-- A contribution to a reduction waits until every logical tile has sent its own; then the whole sum is formed word by
word over the tree of R165 and lands in memory of the partition; elsewhere nothing is written (R27). With one logical
tile the sum is its contribution. Where the sum lands the spec leaves open (log 28). -/
def Obligations.ReductionWaits : Prop :=
  ∀ (d : Dev) (p : Port) (tile slot : Nat) (fp : Bool) (ws : List Nat),
    ((∃ l < (d.take p).cs.tiles, l ≠ tile ∧ ∀ x ∈ (d.take p).reds, x.slot = slot → x.tile ≠ l) →
      (d.reduceSend p tile slot fp ws).mem = d.mem ∧
      ((d.reduceSend p tile slot fp ws).take p).reds =
        (d.take p).reds ++ [⟨slot, tget 0 (d.take p).sends (256 * tile + slot), tile, ws⟩]) ∧
    (tile = 0 → (d.take p).cs.tiles = 1 → (d.take p).reds = [] → ws ≠ [] →
      d.clearingIn (d.redTarget p slot) (4 * ws.length) = [] →
      (d.reduceSend p tile slot fp ws).mem =
        (if d.rangeOwned p (d.redTarget p slot) (4 * ws.length) then
          d.mem.write (d.redTarget p slot) (ws.flatMap (leBytes 4)) else d.mem) ∧
      ((d.reduceSend p tile slot fp ws).take p).reds = [])

/-- Steps end together: with nothing on its way, no loss or fault and no failed link, the end of the frame (or, in
early-clap steps, the release of the step clapper) of the last step of every tile in the step carries each to its next
step and its next instruction; with steps left each stays in its instruction, at the next step, one step fewer to go. The
clapper inside FIELD_INIT carries every tile into its second half, and the one between the halves of a synchronous step
into that half (R65, R77); the end of FIELD_INIT's frame completes it: TILE_STATUS.init rises (R65).
Which tiles take part in a step, and that the last end ends it for all, is the model's reading (logs 21, 36). -/
def Obligations.StepsEnd : Prop :=
  (∀ (s : State) (p : Port), s.dev.stepGroup p ≠ [] → (s.dev.take p).flits = [] → (s.dev.take p).strips = [] →
    (s.dev.take p).stops.status = 0 → (s.dev.take p).failedLinks = 0 → (s.dev.take p).cs.lattice = false →
    (∀ x ∈ s.dev.stepGroup p, x.2.2.op ≠ 0x40 ∧ x.2.2.left ≤ 1 ∧ x.2.2.half = 1) →
    ((∀ x ∈ s.dev.stepGroup p, x.2.2.early = false) → Makes (.frameEnd p) s fun e =>
      ∀ x ∈ s.dev.stepGroup p, e.member p x.1 = some ({ x.2.1 with
        step := (x.2.1.step + 1) % 2 ^ 48, beats := x.2.1.beats + (x.2.2.frame + (s.dev.take p).frameExt),
        sweep := none }.next 0)) ∧
    ((∀ x ∈ s.dev.stepGroup p, x.2.2.early = true) → Makes (.stepClapperRelease p) s fun e =>
      ∀ x ∈ s.dev.stepGroup p, ∃ n, e.member p x.1 = some ({ x.2.1 with
        step := (x.2.1.step + 1) % 2 ^ 48, beats := x.2.1.beats + n, sweep := none }.next 0))) ∧
  (∀ (s : State) (p : Port), s.dev.stepGroup p ≠ [] → (s.dev.take p).flits = [] → (s.dev.take p).strips = [] →
    (s.dev.take p).stops.status = 0 → (s.dev.take p).failedLinks = 0 → (s.dev.take p).cs.lattice = false →
    (∀ x ∈ s.dev.stepGroup p, x.2.2.op = 0x41 ∧ 1 < x.2.2.left ∧ x.2.2.half = 1 ∧ x.2.2.early = false ∧
      s.dev.rd x.2.1.page 0x024 0 = 0) →
    Makes (.frameEnd p) s fun e => ∀ x ∈ s.dev.stepGroup p, ∃ fl, e.member p x.1 = some { x.2.1 with
      step := (x.2.1.step + 1) % 2 ^ 48, beats := x.2.1.beats + (x.2.2.frame + (s.dev.take p).frameExt),
      sweep := some { x.2.2 with left := x.2.2.left - 1, flips := fl, seen := [], half := 1 } }) ∧
  (∀ (s : State) (p : Port), s.dev.stepGroup p ≠ [] → (s.dev.take p).flits = [] → (s.dev.take p).strips = [] →
    (s.dev.take p).stops.status = 0 → (s.dev.take p).failedLinks = 0 → (s.dev.take p).cs.lattice = false →
    ((∀ x ∈ s.dev.stepGroup p, x.2.2.op = 0x40 ∧ x.2.2.half = 1) → Makes (.stepClapperRelease p) s fun e =>
      ∀ x ∈ s.dev.stepGroup p, e.member p x.1 = some { x.2.1 with sweep := some { x.2.2 with half := 2 } }) ∧
    ((∀ x ∈ s.dev.stepGroup p, x.2.2.op = 0x42 ∧ x.2.2.half = 0) → Makes (.stepClapperRelease p) s fun e =>
      ∀ x ∈ s.dev.stepGroup p, e.member p x.1 = some { x.2.1 with sweep := some { x.2.2 with half := 1 } }) ∧
    ((∀ x ∈ s.dev.stepGroup p, x.2.2.op = 0x40 ∧ x.2.2.half = 2 ∧ x.2.2.early = false ∧
        ∃ σ < 144, x.2.1.page = .tile σ) →
      Makes (.frameEnd p) s fun e => ∀ x ∈ s.dev.stepGroup p, e.rd x.2.1.page 0x104 1 = 1 ∧
        e.member p x.1 = some ({ x.2.1 with sweep := none }.next (x.2.2.frame + (s.dev.take p).frameExt))))

/-- A flit of field deltas and empty positions, all for one tile that takes them, is taken off the items on their way
(R70). A single delta for a tile in a coloured step adds its value to the field word of its target, modulo 2^32 (R38), counts
as received, and writes no other byte; where variables' fields overlap the word's value is open (R32). A gate delta that
its tile takes, and an edge record, are taken off in the same way, and what they set off goes behind the items on their
way. In FIELD_INIT a gate delta sets the activity bit of a group of its gate to
whether the gate's new state is the group's (R43, R65), and no other byte but that bit's changes; a step's edge
record, read by a lattice tile that stands between instructions, is taken off those on their way and its flips are
spread into the neighbouring fields (R94, R95).
That a bank collision drops the later delta is the model's choice (log 54). -/
def Obligations.FlitsApply : Prop :=
  (∀ (s : State) (p : Port) (f : Nat) (ps : List Nat) (c : TileCtx), s.dev.running p = true → s.dev.calm p = true →
    s.dev.destTile p f = some c →
    ((s.dev.take p).cs.lattice = false → ps.find? (fun g => bits g 73 2 != 3) = some f → (∀ g ∈ ps, bits g 73 2 ≠ 1) →
      (∀ g ∈ ps, bits g 73 2 = 3 ∨ bits g 80 8 = bits f 80 8 ∧ s.dev.accepts p c g = true) →
      Makes (.deltaFlit p ps) s fun e =>
        (e.take p).flits = ps.foldl (fun l g => l.eraseP fun x => x.flit == g) (s.dev.take p).flits ∧
        (e.take p).members = (s.dev.take p).members ∧ e.take p.other = s.dev.take p.other) ∧
    ((s.dev.take p).cs.lattice = false → bits f 73 2 = 1 → s.dev.accepts p c f = true →
      Makes (.gateDelta p f) s fun e =>
        (∃ l, (e.take p).flits = (s.dev.take p).flits.eraseP (fun x => x.flit == f) ++ l) ∧
        (e.take p).members = (s.dev.take p).members ∧ e.take p.other = s.dev.take p.other) ∧
    ((s.dev.take p).cs.lattice = true → ((s.dev.take p).memberOf c.pg).isSome = true →
      Makes (.edgeRecord p f) s fun e =>
        (∃ l, (e.take p).flits = (s.dev.take p).flits.eraseP (fun x => x.flit == f) ++ l) ∧
        e.take p.other = s.dev.take p.other)) ∧
  (∀ (s : State) (p : Port) (f σ l v : Nat) (m : Member) (sw : Sweep), s.dev.running p = true → s.dev.calm p = true →
    (s.dev.take p).cs.lattice = false → bits f 73 2 = 0 → bits f 75 5 = 0 → bits f 118 10 = 0 →
    s.dev.siteOf p (bits f 80 8) = some σ → σ < 144 → bits f 96 16 ≠ 0xFFFF →
    (s.dev.take p).memberOf (.tile σ) = some m → m.sweep = some sw → sw.op = 0x41 →
    (s.dev.tileCtx p σ).place s.dev (bits f 32 28) = some (l, v) → l = (s.dev.tileCtx p σ).l →
    bits f 60 4 < ((s.dev.tileCtx p σ).desc s.dev v).slots →
    ((s.dev.tileCtx p σ).desc s.dev v).fieldAddr (bits f 64 9) (bits f 60 4) + 4 ≤ localSpace →
    Makes (.deltaFlit p [f]) s fun e =>
      ((s.dev.tileCtx p σ).openField s.dev
          (((s.dev.tileCtx p σ).desc s.dev v).fieldAddr (bits f 64 9) (bits f 60 4)) = false →
        e.ld (((s.dev.tileCtx p σ).desc s.dev v).fieldAddr (bits f 64 9) (bits f 60 4)) 4 =
        (s.dev.ld (((s.dev.tileCtx p σ).desc s.dev v).fieldAddr (bits f 64 9) (bits f 60 4)) 4 + bits f 0 32) %
          2 ^ 32) ∧
      s.dev.KeepsMem e (((s.dev.tileCtx p σ).desc s.dev v).fieldAddr (bits f 64 9) (bits f 60 4)) 4 ∧
      e.rd (.tile σ) 0x070 0 = (s.dev.rd (.tile σ) 0x070 0 + 1) % 2 ^ 64 ∧
      (e.take p).members = (s.dev.take p).members) ∧
  (∀ (s : State) (p : Port) (f σ : Nat) (m : Member), s.dev.Mirrors → s.dev.running p = true → s.dev.calm p = true →
    σ < 144 →
    s.dev.siteOf p (bits f 80 8) = some σ → (s.dev.take p).memberOf (.tile σ) = some m →
    (∀ sw, (s.dev.take p).cs.lattice = false → bits f 73 2 = 1 → bits f 75 5 = 0 → bits f 118 10 = 0 →
      bits f 8 24 = 0 → bits f 60 4 = 0 → s.dev.accepts p (s.dev.tileCtx p σ) f = true → m.sweep = some sw →
      sw.op = 0x40 → (s.dev.tileCtx p σ).groups = 1 →
      ((s.dev.tileCtx p σ).group s.dev 0).gate = bits f 32 28 → bits f 64 9 < (s.dev.tileCtx p σ).reps →
      (s.dev.tileCtx p σ).store 6 + 64 ≤ localSpace →
      Makes (.gateDelta p f) s fun e =>
        (s.dev.tileCtx p σ).actBit e 0 (bits f 64 9) =
          decide (((s.dev.tileCtx p σ).group s.dev 0).state = bits f 4 4) ∧
        s.dev.KeepsMem e ((s.dev.tileCtx p σ).store 6 + bits f 64 9 / 8) 1 ∧
        s.dev.KeepsRegs e ((s.dev.take p).members.map fun x => fieldKey (x.page.base + 0x104) 6) ∧
        (e.take p).flits = (s.dev.take p).flits.eraseP (fun x => x.flit == f)) ∧
    ((s.dev.take p).cs.lattice = true → bits f 73 2 = 0 → m.sweep = none → Makes (.edgeRecord p f) s fun e =>
      e = ((s.dev.tileCtx p σ).edgeRecordIn (s.dev.quiet.modTake p fun t => t.unsend f).oneBeat m.step f).beatOver ∧
      (bits f 0 64 = 0 → bits f 78 2 = 0 → bits f 118 10 = 0 → bits f 64 9 % 4 = 0 → bits f 96 16 = m.step % 2 ^ 16 →
        e.mem = s.dev.mem ∧ (e.take p).stops = (s.dev.take p).stops ∧ e.regs = s.dev.regs)))

/-! ### The update rules (R58 to R63) -/

/-- One update of a variable-replica by each rule: heat-bath and Metropolis of a spin, Metropolis and categorical Gibbs of a
Potts variable, and the Gaussian draw; every draw is that of its purpose at the variable's index, with the low bits of
a field as data. Every update counts, a cold skip and a change of state too, and only a change writes the new state. -/
def Obligations.UpdatesFollowRules : Prop :=
  ∀ (d : Dev) (c : TileCtx) (sw : Sweep) (t first v r : Nat), c.s < 144 →
    let e := c.desc d v
    let s := c.state d e r
    let β := c.beta d r
    let h (k : Nat) : Nat := d.ld (e.fieldAddr r k) 4
    let x (purpose k : Nat) : DWord := draw c.seed (stream r purpose) (first + v) t (h k % 2 ^ 16)
    let becomes (new : Nat) (cold sat : Bool) : Prop :=
      let o := c.update sw (genDraw c.seed t) first v r d
      o.1 = (if new = s then none else some ⟨v, r, s, new⟩) ∧
      o.2.mem = (if new = s then d.mem else (c.setState d e r new).mem) ∧
      o.2.rd c.pg 0x040 0 = (d.rd c.pg 0x040 0 + 1) % 2 ^ 64 ∧
      o.2.rd c.pg 0x050 0 = (d.rd c.pg 0x050 0 + cold.toNat) % 2 ^ 64 ∧
      o.2.rd c.pg 0x048 0 = (d.rd c.pg 0x048 0 + (if new = s then 0 else 1)) % 2 ^ 64 ∧
      o.2.rd c.pg 0x104 3 = (if sat then 1 else d.rd c.pg 0x104 3)
    let y := f32mul β (f32OfFx32 (h 0))
    let xs := f32add y y
    let a := if s = 1 then xs else f32neg xs
    (e.kind = 0 → sw.spinRule = false →
      ((f32 lambdaMax).lt (f32 xs) = true → becomes 1 true false) ∧
      ((f32 lambdaMax).lt (f32 xs) = false → (f32 xs).lt (f32 (f32neg lambdaMax)) = true → becomes 0 true false) ∧
      ((f32 lambdaMax).lt (f32 xs) = false → (f32 xs).lt (f32 (f32neg lambdaMax)) = false →
        becomes (if (f32 (logit (u24of (x 0x00 0)))).lt (f32 xs) then 1 else 0) false false)) ∧
    (e.kind = 0 → sw.spinRule = true →
      ((f32 a).le .zero = true → becomes (1 - s % 2) false false) ∧
      ((f32 a).le .zero = false → (f32 a0F32).le (f32 a) = true → becomes s true false) ∧
      ((f32 a).le .zero = false → (f32 a0F32).le (f32 a) = false →
        becomes (if u24of (x 0x01 0) < expt a then 1 - s % 2 else s) false false)) ∧
    (e.kind = 1 → sw.pottsRule = true → ∀ k0 k a, k0 = u32of (x 0x02 s) * (e.q - 1) / 2 ^ 32 →
      k = (if s ≤ k0 then k0 + 1 else k0) →
      a = f32mul β (f32ofInt (toSigned 32 (h s) - toSigned 32 (h k)) (-16)) →
      ((f32 a).le .zero = true → becomes k false false) ∧
      ((f32 a).le .zero = false → (f32 a0F32).le (f32 a) = true → becomes s true false) ∧
      ((f32 a).le .zero = false → (f32 a0F32).le (f32 a) = false →
        becomes (if u24of (x 0x01 s) < expt a then k else s) false false)) ∧
    (e.kind = 1 → sw.pottsRule = false →
      let z (k : Nat) : Nat := f32add (f32mul β (f32OfFx32 (h k))) (gumbel (u24of (x (0x40 + k) k)))
      (∀ k < e.q, (f32 (z k)).isNan = false) → ∀ k < e.q,
        (∀ j < e.q, (f32 (z k)).lt (f32 (z j)) = false) → (∀ j < k, (f32 (z j)).lt (f32 (z k)) = true) →
        becomes k false false) ∧
    (2 ≤ e.kind →
      let μ := f32mul e.variance (f32OfFx32 (h 0))
      let sd := f32sqrt (f32div e.variance β)
      let x' := f32add μ (f32mul sd (normal (u32of (x 0x03 0))))
      ((∀ n, f32 x' ≠ .inf n) → becomes x' false false) ∧
      (f32 x' = .inf false → becomes 0x7F7FFFFF false true) ∧
      (f32 x' = .inf true → becomes 0xFF7FFFFF false true))

/-! ### Lattice rounds and the cistern (R97 to R107) -/

/-- A round at the end of an interval gathers every tile's energy accumulators and clears them, counts itself, and sends
one notice to every tile; it runs once at a step (R97, R100, R102, R449). No round runs before an interval has ended:
the command then changes nothing. A tile takes its round notice off those on their way and applies it: the rung swaps
and the β table in exchange mode, the patches of the candidates it names; a notice of neither writes nothing. One
insertion takes the first candidate off, whatever becomes of it, and never lets the cistern outgrow its capacity
(R107). A round that finds candidates of the round before still waiting is FRAME_SHORT, and runs all the same.
That a round reads the accumulators themselves is the model's choice (log 60). -/
def Obligations.RoundsRun : Prop :=
  (∀ (s : State) (p : Port) (l : Ladder) (t : Nat), s.dev.running p = true → s.dev.calm p = true →
    (s.dev.take p).ladder = some l → s.dev.roundStep p = some t → l.cands ≠ [] → l.counts ≠ [] →
    lrOrigin (l.record s.dev) < t → (s.dev.take p).cs.stepOrigin < t → 0 < lrInterval (l.record s.dev) →
    (t - lrOrigin (l.record s.dev)) % (4 * lrInterval (l.record s.dev)) = 0 → l.last ≠ t →
    Makes (.round p) s fun e => (e.take p).stops.schedule = true ∧ ∃ l' : Ladder, (e.take p).ladder = some l' ∧
      l'.last = t ∧ l'.ve = l.ve ∧ l'.counts.getD 0 0 = l.counts.getD 0 0 + 1 ∧
      (e.take p).notices = (s.dev.take p).notices ++
        (List.range (s.dev.take p).cs.tiles).map (fun i => (i, l'.notice))) ∧
  (∀ (s : State) (p : Port) (l : Ladder) (t : Nat), s.dev.running p = true → s.dev.calm p = true →
    (s.dev.take p).ladder = some l →
    s.dev.roundStep p = some t → l.cands = [] → l.counts ≠ [] → lrOrigin (l.record s.dev) < t →
    (s.dev.take p).cs.stepOrigin < t → 0 < lrInterval (l.record s.dev) →
    (t - lrOrigin (l.record s.dev)) % (4 * lrInterval (l.record s.dev)) = 0 → l.last ≠ t →
    Makes (.round p) s fun e => ∃ l' : Ladder, (e.take p).ladder = some l' ∧ l'.last = t ∧ l'.ve = l.ve ∧
      l'.counts.getD 0 0 = l.counts.getD 0 0 + 1 ∧
      l'.energies = (gatherEnergies p (lrReplicas (l.record s.dev)) l.energies s.dev).1 ∧
      (∀ x ∈ s.dev.tileMembers p,
        (e.tile x.2.page.site).energy = List.replicate (lrReplicas (l.record s.dev)) 0) ∧
      (e.take p).notices = (s.dev.take p).notices ++
        (List.range (s.dev.take p).cs.tiles).map (fun i => (i, l'.notice)) ∧
      (e.take p).members = (s.dev.take p).members) ∧
  (∀ (s : State) (p : Port) (l : Ladder) (t : Nat), s.dev.Mirrors → (s.dev.take p).ladder = some l →
    s.dev.roundStep p = some t →
    (t ≤ lrOrigin (l.record s.dev) ∨ t ≤ (s.dev.take p).cs.stepOrigin ∨
      (t - lrOrigin (l.record s.dev)) % (4 * lrInterval (l.record s.dev)) ≠ 0 ∨ l.last = t) →
    exec (.round p) s = .next { s with dev := s.dev.quiet }) ∧
  (∀ (s : State) (p : Port) (tile notice σ : Nat) (l : Ladder), s.dev.Mirrors → s.dev.running p = true →
    s.dev.calm p = true →
    s.dev.siteOf p tile = some σ → (s.dev.take p).ladder = some l → ((s.dev.take p).memberOf (.tile σ)).isSome = true →
    Makes (.roundNotice p tile notice) s fun e =>
      (e.take p).notices = (s.dev.take p).notices.erase (tile, notice) ∧
      e = (s.dev.tileCtx p σ).noticeIn (s.dev.quiet.modTake p fun t => { t with
        notices := t.notices.erase (tile, notice) }) (s.dev.noticeMode p l) (lrRungs (l.record s.dev)) notice ∧
      (s.dev.noticeMode p l ≠ 1 → (∀ i < 16, bits notice (512 + 32 * i) 32 = 0) → e.mem = s.dev.mem)) ∧
  (∀ (s : State) (p : Port) (l : Ladder) (c : Cand) (rest : List Cand), s.dev.running p = true →
    s.dev.calm p = true →
    (s.dev.take p).ladder = some l → l.cands = c :: rest → (s.dev.take p).notices = [] →
    Makes (.cisternInsert p) s fun e => ∃ l' : Ladder, (e.take p).ladder = some l' ∧ l'.cands = rest ∧
      (l.entries ≤ lrCap (l.record s.dev) → l'.entries ≤ lrCap (l.record s.dev)) ∧ l.entries ≤ l'.entries ∧
      (e.take p).members = (s.dev.take p).members)

/-! ### Matrix engines (R131 to R164, R196, R197) -/

/-- LOAD and STORE move len units of 256 bytes between local DRAM and the engine's buffers, take ⌈len/8⌉ + 16 beats, and
write no other byte and no register (in a vault that is being cleared the bytes stay as they are, R238). SET_GROUPS puts the records it names in force for the member's half, and takes
one beat; with every record well formed, none overlapping an earlier one and none holding its own gate, nothing else
changes (R149). -/
def Obligations.MatrixCopiesAndGroups : Prop :=
  (∀ (s : State) (p : Port) (k q : Nat) (m : Member) (w : Nat), s.dev.Mirrors → s.dev.due p k m w →
    m.page = .me q → q < 4 →
    s.dev.clearingIn (bits w 0 38) (256 * bits w 96 16) = [] →
    (opcodeOf w = 0x46 → Makes (.load p k) s fun e =>
      e.bytes ((if bit w 79 then wideBuf q else opBuf q 0) + 256 * bits w 80 16) (256 * bits w 96 16) =
        s.dev.bytes (bits w 0 38) (256 * bits w 96 16) ∧
      s.dev.KeepsMem e ((if bit w 79 then wideBuf q else opBuf q 0) + 256 * bits w 80 16) (256 * bits w 96 16) ∧
      e.member p k = some (m.next ((bits w 96 16 + 7) / 8 + 16)) ∧ e.regs = s.dev.regs) ∧
    (opcodeOf w = 0x47 → bits w 0 38 + 256 * bits w 96 16 ≤ localSpace → Makes (.store p k) s fun e =>
      e.bytes (bits w 0 38) (256 * bits w 96 16) =
        s.dev.bytes ((if bit w 79 then wideBuf q else opBuf q 0) + 256 * bits w 80 16) (256 * bits w 96 16) ∧
      s.dev.KeepsMem e (bits w 0 38) (256 * bits w 96 16) ∧
      e.member p k = some (m.next ((bits w 96 16 + 7) / 8 + 16)) ∧ e.regs = s.dev.regs)) ∧
  (∀ (s : State) (p : Port) (k q : Nat) (m : Member) (w : Nat) (ws : List Nat), s.dev.Mirrors →
    s.dev.due p k m w → opcodeOf w = 0x48 → m.page = .me q →
    ws = (List.range (bits w 0 9)).map (fun i => s.dev.ld (opBuf q (bits w 48 16) + 8 * i) 8) →
    (∀ x ∈ ws, cgReserved x = false) → (∀ i < ws.length, cgBad ws i = false) →
    exec (.setGroups p k) s = .next { s with
      dev := ({ s.dev.quiet with groups := tput s.dev.groups (2 * q + m.half) ws } : Dev).setMember p k (m.next 1) })

/-- How group sums enter a cell (R155, R159): 32-bit accumulation adds each to the total; 16-bit accumulation without
chunks adds each to the run; a promotion moves the run into the total; and an accumulation may be cut into
instructions anywhere. -/
def Obligations.GroupSumsEnterCell : Prop :=
  ∀ (acc chunk spill n : Nat) (gs hs : List Machine.Num) (c : Cell),
    Cell.groups acc chunk spill n (gs ++ hs) c =
      Cell.groups acc chunk spill (n + gs.length) hs (Cell.groups acc chunk spill n gs c) ∧
    (acc < 2 → (Cell.groups acc chunk 0 n gs c).total = gs.foldl (fun t g => (accum acc t g).1) c.total ∧
      (Cell.groups acc chunk 0 n gs c).run = c.run ∧ (Cell.groups acc chunk 0 n gs c).wide = c.wide) ∧
    (2 ≤ acc → (Cell.groups acc 0 0 n gs c).run = gs.foldl (fun t g => (accum acc t g).1) c.run ∧
      (Cell.groups acc 0 0 n gs c).total = c.total ∧ (Cell.groups acc 0 0 n gs c).wide = c.wide) ∧
    (c.promote acc).run = 0 ∧ (c.promote acc).total = (accum (acc % 2) c.total (accVal acc c.run)).1

/-- MMA, MMA_FLIP (all its state strips in) and MMA_OUTER without spills: every cell of the output tile takes in the exact
group sums of its products in K order, from zero or from its value before; no other register of any engine changes. A
fixed-frame MMA_FLIP that still lacks a state strip raises FRAME_SHORT and waits, and metadata out of order raise
MODEL_SPARSE: the take is to stop (R140, R147). What the wait for the strips is, is the model's reading (log 35). -/
def Obligations.ProductsAccumulate : Prop :=
  ∀ (s : State) (p : Port) (k q op : Nat) (c : Instr) (m : Member) (w : Nat) (M : Mma) (grps : List Nat) (z : Dev),
    s.dev.Mirrors → (c, op) ∈ [(Instr.mma p k, 0x40), (.mmaFlip p k, 0x41), (.mmaOuter p k, 0x42)] →
    s.dev.due p k m w → opcodeOf w = op → m.page = .me q → q < 4 → M = s.dev.mma p q w →
    (op = 0x41 → M.early = false → ∀ x ∈ (s.dev.take p).strips, s.dev.stripFor q m.half x = true →
      Makes c s fun e => e.member p k = some { m with waiting := true } ∧ e.mem = s.dev.mem ∧ e.accs = s.dev.accs ∧
        (e.take p).stops.schedule = true) ∧
    ((op = 0x41 → M.early = false → ∀ x ∈ (s.dev.take p).strips, s.dev.stripFor q m.half x = false) →
      ∀ b, M.sparse = 1 → M.badMeta s.dev = some b → Makes c s fun e => (e.take p).stops.model = true) ∧
    (M.spill = 0 → grps = (if op = 0x42 then [] else tget [] s.dev.groups (2 * q + m.half)) →
    z = (if M.add then s.dev else
      forN M.m (fun i d => forN M.n (fun j d => d.st (d.wideAddr q m.half M.reg i j) 8 0) d) s.dev) →
    (op = 0x41 → M.early = false → ∀ x ∈ (s.dev.take p).strips, s.dev.stripFor q m.half x = false) →
    (M.sparse = 1 → M.badMeta s.dev = none) →
    Makes c s fun e => (∃ n hd, e.member p k = some ({ m with hold := hd }.next n)) ∧ e.mem = z.mem ∧
      (∀ x, x ≠ accIdx q m.half M.reg → tget {} e.accs x = tget {} s.dev.accs x) ∧
      ∀ i < M.m, ∀ j < M.n,
        let r := s.dev.acc q m.half M.reg
        let old := if M.add then r.cell i j else (0, 0)
        let ps := (M.aRow z i).map fun a => product a.2
          (((List.range M.k).map fun x => M.bVal z grps x j).getD a.1 none)
        let x := Cell.groups M.acc M.chunk 0 (if M.add then r.groups else 0)
          ((chunks (groupWidth M.fa M.fb) ps.length ps).map exactSum)
          ⟨old.1, old.2, z.ld (z.wideAddr q m.half M.reg i j) 8, false⟩
        (e.acc q m.half M.reg).cell i j = (x.run, x.total))

/-- DRAIN: every cell, its open run promoted and what it spilled added, is converted into its element of the operand
buffer; m + 4 beats; no other byte changes but, where the instruction asks for them, one record of statistics a row
(R161, R162). What lies in the operand buffer leaves the wide buffer's values alone. -/
def Obligations.DrainConverts : Prop :=
  ∀ (s : State) (p : Port) (k q : Nat) (m : Member) (w rows cols dst st n : Nat) (r : AccReg) (fo : Fmt),
    s.dev.Mirrors → s.dev.due p k m w → opcodeOf w = 0x43 → m.page = .me q → q < 4 →
    r = s.dev.acc q m.half (bits w 112 1) → fo = (Fmt.ofCode (bits w 89 5)).getD .f32 →
    rows = bits w 103 9 + 1 → cols = bits w 94 9 + 1 → n = (rows * cols * fo.width + 7) / 8 →
    dst = opBuf q (bits w 48 16) → st = opBuf q (bits w 16 16) →
    (r.spilled = true → dst + n ≤ wideBuf q) →
    (bit w 113 = true → apart dst n st (32 * rows) ∧ st + 32 * rows ≤ wideBuf q) →
    Makes (.drain p k) s fun e =>
      let v := fun i j =>
        let x := s.dev.loadCell q m.half (bits w 112 1) r i j
        r.value (if r.runOpen then x.promote r.acc else x)
      e.member p k = some (m.next (rows + 4)) ∧
      (∀ b, (b < dst ∨ dst + n ≤ b) → (bit w 113 = true → b < st ∨ st + 32 * rows ≤ b) →
        e.mem.get b = s.dev.mem.get b) ∧
      (∀ i < rows, ∀ j < cols,
        e.elem dst fo.width (i * cols + j) = (convertCode (v i j).1 fo (v i j).2.1).1 % 2 ^ fo.width) ∧
      (bit w 113 = true → ∀ i < rows, ∃ fl, e.ld (st + 32 * i) 32 = (rowStats (accInt r.acc)
        ((List.range cols).map fun j => (v i j).1.decode (v i j).2.1) fl).1)

/-- FIELD_SET stores the fields as FP32 and their FX32 words in the send area; FIELD_DIFF adds to the FP32 fields and
sends the change of their FX32 words; the words of each row travel as strips of 32 to the row's tile, but for strips of
zeros only of a FIELD_DIFF of an early-clap accumulation (R141, R142).
The tiles the rows go to are operands, the model's choice (log 70), and so is the layout row by row (log 200). -/
def Obligations.FieldsHandedOff : Prop :=
  ∀ (s : State) (p : Port) (k q : Nat) (dsts : List Nat) (m : Member) (w rows cols img snd st n : Nat) (r : AccReg),
    s.dev.Mirrors → s.dev.due p k m w → m.page = .me q → q < 4 →
    r = s.dev.acc q m.half (bits w 112 1) → rows = bits w 103 9 + 1 → cols = bits w 94 9 + 1 → n = 4 * (rows * cols) →
    img = opBuf q (bits w 48 16) → snd = opBuf q (bits w 32 16) → st = opBuf q (bits w 16 16) → apart img n snd n →
    (r.spilled = true → img + n ≤ wideBuf q ∧ snd + n ≤ wideBuf q) →
    (bit w 113 = true → apart img n st (32 * rows) ∧ apart snd n st (32 * rows) ∧ st + 32 * rows ≤ wideBuf q) →
    ∀ c diff, (c, diff) ∈ [(Instr.fieldSet p k dsts, false), (.fieldDiff p k dsts, true)] →
      opcodeOf w = (if diff then 0x45 else 0x44) →
      Makes c s fun e =>
        e.member p k = some (m.next (rows + 4)) ∧
        (∀ b, (b < img ∨ img + n ≤ b) → (b < snd ∨ snd + n ≤ b) →
          (bit w 113 = true → b < st ∨ st + 32 * rows ≤ b) → e.mem.get b = s.dev.mem.get b) ∧
        (∀ i < rows, ∀ j < cols,
          let x := s.dev.loadCell q m.half (bits w 112 1) r i j
          let v := r.value (if r.runOpen then x.promote r.acc else x)
          let f := (convertCode v.1 .f32 v.2.1).1
          let old := s.dev.ld (img + 4 * (i * cols + j)) 4
          let new := if diff then (fp32.convert ((f32 old).add (f32 f))).1 else f
          let fx := ((f32 new).toFixed 32 16).1
          e.ld (img + 4 * (i * cols + j)) 4 = new % 2 ^ 32 ∧
          e.ld (snd + 4 * (i * cols + j)) 4 = ofSigned 32 (if diff then fx - fx32OfF32 old else fx)) ∧
        (e.take p).strips = (s.dev.take p).strips ++ (List.range rows).flatMap fun i =>
          ((stripsOf ((List.range cols).map fun j => e.ld (snd + 4 * (i * cols + j)) 4)).filter fun x =>
            !(diff && r.early && x.all (· == 0))).map fun x => ⟨1, 0xF0 + q, dsts.getD i (dsts.getLastD 0), i, x⟩

/-- STRIP_SEND puts one strip for every variable of its range and every engine its route set names on its way: the states
of all replicas, reals converted to the block's B format, and behind 512 places their flip bits if asked for; n + 4
beats; nothing else changes (R140). A state
strip is taken off those on their way and fills its row of the B image, and its flip bits that of the flip image behind it; the
half of an engine it goes to waits no more once no state strip is left for it (R139). A field strip adds each word, modulo
2^32, to the field word its entry gives it (R142); of words that meet in one sub-bank only the first is added, and
BANK_COLLISION stops the take (R19, R69).
Destinations and entries are operands, the model's choice (log 70). -/
def Obligations.StripsTravel : Prop :=
  (∀ (s : State) (p : Port) (k σ : Nat) (dsts : List Nat) (fmt : Nat) (m : Member) (w : Nat) (c : TileCtx),
    s.dev.Mirrors → s.dev.due p k m w → opcodeOf w = 0x47 → m.page = .tile σ → c = s.dev.tileCtx p σ →
    exec (.stripSend p k dsts fmt) s = .next { s with
      dev := (s.dev.quiet.modTake p fun t => { t with
        strips := t.strips ++ (List.range (bits w 80 16)).flatMap fun i => dsts.map fun q =>
          let sts := (List.range c.reps).map fun r =>
            let x := c.state s.dev (c.desc s.dev (bits w 96 16 + i)) r
            if c.fmt = 2 then (convertCode .f32 ((Fmt.ofCode fmt).getD .spin1) x).1 else x
          let flips := (List.range c.reps).map fun r =>
            ((s.dev.tile σ).last.any fun f => f.v == bits w 96 16 + i && f.r == r).toNat
          ⟨0, c.l, q, bits w 96 16 + i,
            if bit w 112 then sts ++ List.replicate (512 - sts.length) 0 ++ flips else sts⟩
        }).setMember p k (m.next (bits w 80 16 + 4)) }) ∧
  ∀ (s : State) (p : Port) (i : Nat) (x : Strip), s.dev.running p = true → s.dev.calm p = true →
    (s.dev.take p).strips[i]? = some x →
    (∀ base row rows cols fmt f q img n, f = (Fmt.ofCode fmt).getD .spin1 → x.kind = 0 → x.dst < 8 → q = x.dst % 4 →
      img = opBuf q base → n = up16 rows * up16 cols * 32 → row < rows → img + n * (f.width + 1) ≤ localSpace →
      Makes (.stateStrip p i base row rows cols fmt) s fun e =>
        (e.take p).strips = (s.dev.take p).strips.eraseIdx i ∧
        (∀ j < cols, e.brickElem img (up16 cols) f.width row j = x.data.getD j 0 % 2 ^ f.width) ∧
        (512 < x.data.length → ∀ j < cols,
          e.brickElem (img + n * f.width) (up16 cols) 1 row j = x.data.getD (512 + j) 0 % 2) ∧
        e.rd (.me q) 0x068 0 = (s.dev.rd (.me q) 0x068 0 + 1) % 2 ^ 64 ∧
        s.dev.KeepsMem e img (n * (if 512 < x.data.length then f.width + 1 else f.width)) ∧
        (∀ y ∈ (e.take p).members, y.page = .me q →
          (∀ z ∈ (s.dev.take p).strips.eraseIdx i, s.dev.stripFor q y.half z = false) → y.waiting = false)) ∧
    (∀ entry site S f0 a c, x.kind = 1 → s.dev.siteOf p x.dst = some site → S = bits entry 18 5 → 1 ≤ S → S ≤ 16 →
      entry < 2 ^ 51 → x.data.length ≤ 32 → (∀ y ∈ x.data, y < 2 ^ 32) → c = s.dev.tileCtx p site → c.deep = false →
      (∀ v < c.vars, c.overlapped s.dev v = false) → f0 = bits entry 0 18 → a = c.store 1 + 4 * f0 →
      apart a 2048 (c.store 0) (16 * c.vars) → a + 2048 ≤ localSpace →
      Makes (.fieldStrip p i entry) s fun e =>
        (e.take p).strips = (s.dev.take p).strips.eraseIdx i ∧
        (∀ j < x.data.length,
          ((∀ n < j, (f0 + n * S) % 128 ≠ (f0 + j * S) % 128) →
            e.ld (a + 4 * (j * S)) 4 = (s.dev.ld (a + 4 * (j * S)) 4 + x.data.getD j 0) % 2 ^ 32) ∧
          (∀ n < j, (f0 + n * S) % 128 = (f0 + j * S) % 128 →
            e.ld (a + 4 * (j * S)) 4 = s.dev.ld (a + 4 * (j * S)) 4 ∧ (e.take p).stops.schedule = true)) ∧
        s.dev.KeepsMem e a 2048)

/-! ### Vector engines (R170 to R186) -/

/-- VADD, VSUB, VMUL, VFMA and VMAX: each element is the exact result on the operands read before any result is written,
rounded in the operation format and converted; a bank that two accesses of a beat meet in drops the later one (R174,
R190). The engine counts the instruction and its elements (R185). -/
def Obligations.ElementwiseComputes : Prop :=
  ∀ (s : State) (p : Port) (k e0 op : Nat) (c : Instr) (f : Machine.Num → Machine.Num → Machine.Num → Machine.Num) (useD : Bool) (m : Member) (w : Nat)
    (v : VWord), s.dev.Mirrors →
    (c, op, f, useD) ∈ [(Instr.vadd p k, 0x41, (fun a b _ => a.add b), false),
      (.vsub p k, 0x42, (fun a b _ => a.sub b), false), (.vmul p k, 0x43, (fun a b _ => a.mul b), false),
      (.vfma p k, 0x44, (fun a b c => (a.mul b).add c), true), (.vmax p k, 0x45, (fun a b _ => vmax a b), false)] →
    s.dev.due p k m w → opcodeOf w = op → m.page = .ve e0 → e0 < 16 → s.dev.rd (.ve e0) 0x024 0 = 0 → v = ⟨w, e0⟩ →
    Makes c s fun e =>
      e.member p k = some (m.next (elemBeats v.fmt v.n)) ∧
      e.rd (.ve e0) 0x040 0 = (s.dev.rd (.ve e0) 0x040 0 + 1) % 2 ^ 64 ∧
      e.rd (.ve e0) 0x048 0 = (s.dev.rd (.ve e0) 0x048 0 + v.n) % 2 ^ 64 ∧
      s.dev.KeepsMem e v.dst ((v.n * v.fmtOut.width + 7) / 8) ∧
      ∀ i < v.n,
        let x := v.clash (!v.bcast) i
        let a := s.dev.elem v.srcA v.fmt.width i
        let b := if v.bcast then s.dev.elem v.srcB v.fmt.width 0 else if x.b then v.fmt.ones
          else s.dev.elem v.srcB v.fmt.width i
        let o := if useD then s.dev.elem v.dst v.fmtOut.width i else 0
        e.elem v.dst v.fmtOut.width i = if x.dst then s.dev.elem v.dst v.fmtOut.width i else
          (v.fmtOut.convert (v.fmt.roundOp (f (v.fmt.decode a) (v.fmt.decode b) (v.fmtOut.decode o))).1).1 %
            2 ^ v.fmtOut.width

/-- VNOP idles n beats. VSUM and VDOT round the exact sum once into 8 bytes (R175). VMOVE copies 64-byte lines. COMBINE
adds the landed partials in ascending device order, integers modulo 2^64 and FP64 with one rounding each (R168); a write
that meets a read of its beat in one bank is dropped, where the beats are the model's reading (R190, log 75). -/
def Obligations.VectorSumsAndMoves : Prop :=
  ∀ (s : State) (p : Port) (k e0 : Nat) (m : Member) (w : Nat) (v : VWord), s.dev.Mirrors →
    s.dev.due p k m w → m.page = .ve e0 → e0 < 16 → s.dev.rd (.ve e0) 0x024 0 = 0 → v = ⟨w, e0⟩ →
    (opcodeOf w = 0x40 → exec (.vnop p k) s = .next { s with
      dev := (s.dev.quiet.setMember p k (m.next v.n)).countInstr (.ve e0) 0 }) ∧
    (∀ c op dot, (c, op, dot) ∈ [(Instr.vsum p k, 0x47, false), (.vdot p k, 0x48, true)] → opcodeOf w = op →
      Makes c s fun e =>
        e.member p k = some (m.next (elemBeats v.fmt v.n)) ∧ s.dev.KeepsMem e v.dst 8 ∧
        e.ld v.dst 8 = (v.fmt.sum8 (exactSum ((List.range v.n).map fun i =>
          let a := v.fmt.raw (s.dev.elem v.srcA v.fmt.width i)
          if dot then a.mul (v.fmt.raw (if v.bcast then s.dev.elem v.srcB v.fmt.width 0
            else if (v.clash true i).b then v.fmt.ones else s.dev.elem v.srcB v.fmt.width i)) else a))).1 % 2 ^ 64) ∧
    (opcodeOf w = 0x4D → v.imm 0 38 + 64 * v.n ≤ localSpace → s.dev.clearingIn (v.imm 0 38) (64 * v.n) = [] → Makes (.vmove p k) s fun e =>
      (v.flag 114 = true → e.bytes v.dst (64 * v.n) = s.dev.bytes (v.imm 0 38) (64 * v.n) ∧
        s.dev.KeepsMem e v.dst (64 * v.n) ∧ e.member p k = some (m.next ((v.n + 1) / 2 + 16))) ∧
      (v.flag 114 = false → e.bytes (v.imm 0 38) (64 * v.n) = s.dev.bytes v.dst (64 * v.n) ∧
        s.dev.KeepsMem e (v.imm 0 38) (64 * v.n) ∧ e.member p k = some (m.next ((v.n + 1) / 2 + 8)))) ∧
    (opcodeOf w = 0x50 → Makes (.combine p k) s fun e =>
      e.member p k = some (m.next ((v.imm 0 10 + 1) * ((v.n + 63) / 64) + 8)) ∧ s.dev.KeepsMem e v.dst (8 * v.n) ∧
      ∀ i < v.n,
        let ps := (List.range (v.imm 0 10 + 1)).map fun x =>
          s.dev.ld (v.srcA + x * ((8 * v.n + 63) / 64 * 64) + 8 * i) 8
        e.ld (v.dst + 8 * i) 8 = if v.combineDrop i then s.dev.ld (v.dst + 8 * i) 8
          else if v.fmt = .i64 then ps.sum % 2 ^ 64
          else ps.foldl (fun a x => (fp64.convert ((f64 a).add (f64 x))).1) 0 % 2 ^ 64)

/-- VLN, VNOISE and VRAND give each element from its own index: ln, a Gaussian or uniform draw of the take's seed at the
member's step (R176, R178). VCVT converts and WUPDATE moves a weight along its gradient with decay, each operation
rounded in FP32 (R182). Elements whose write is dropped keep their value. -/
def Obligations.VectorElements : Prop :=
  ∀ (s : State) (p : Port) (k e0 : Nat) (m : Member) (w : Nat) (v : VWord), s.dev.Mirrors →
    s.dev.due p k m w → m.page = .ve e0 → e0 < 16 → s.dev.rd (.ve e0) 0x024 0 = 0 → v = ⟨w, e0⟩ →
    (∀ (c : Instr) (op : Nat) (a : Bool) (f : Nat → Nat), (c, op, a, f) ∈ [
        (Instr.vln p k, 0x49, true, (fun i => (lnF32 (s.dev.ld (v.srcA + 4 * i) 4)).1)),
        (.vnoise p k, 0x4B, true, (fun i =>
          let a := s.dev.ld (v.srcA + 4 * i) 4
          let x := draw (s.dev.take p).cs.seed (stream (v.imm 0 9) 0x05) (v.imm 9 29 + i) m.step (a % 2 ^ 16)
          (fp32.convert ((f32 a).add (f32 (fp32.convert ((f32 (s.dev.ld v.srcB 4)).mul
            (f32 (normal (u32of x))))).1))).1)),
        (.vrand p k, 0x4C, !v.flag 115, (fun i =>
          let a := if v.flag 115 then 0 else s.dev.ld (v.srcA + 4 * i) 4 % 2 ^ 16
          let x := draw (s.dev.take p).cs.seed (stream (v.imm 0 9) (v.imm 32 6)) (v.imm 9 23 + i) m.step a
          if v.flag 114 then u32of x else u24of x))] →
      opcodeOf w = op → Makes c s fun e =>
        e.member p k = some (m.next (elemBeats v.fmt v.n)) ∧ s.dev.KeepsMem e v.dst (4 * v.n) ∧
        ∀ i < v.n, e.ld (v.dst + 4 * i) 4 =
          if (v.clashOf { a := a } i).dst then s.dev.ld (v.dst + 4 * i) 4 else f i % 2 ^ 32) ∧
    (opcodeOf w = 0x46 → Makes (.vcvt p k) s fun e =>
      e.member p k = some (m.next (elemBeats v.fmt v.n)) ∧
      s.dev.KeepsMem e v.dst ((v.n * v.fmtOut.width + 7) / 8) ∧
      ∀ i < v.n, e.elem v.dst v.fmtOut.width i =
        if (v.clash false i).dst then s.dev.elem v.dst v.fmtOut.width i
        else (convertCode v.fmt v.fmtOut (s.dev.elem v.srcA v.fmt.width i)).1 % 2 ^ v.fmtOut.width) ∧
    (opcodeOf w = 0x51 → Makes (.wupdate p k) s fun e =>
      e.member p k = some (m.next (elemBeats v.fmt v.n)) ∧
      s.dev.KeepsMem e v.dst ((v.n * v.fmtOut.width + 7) / 8) ∧
      ∀ i < v.n,
        let x := v.clashOf v.statMoves i
        let a := fp32.encode (v.fmt.decode (s.dev.elem v.srcA v.fmt.width i))
        let g := if v.bcast then s.dev.ld v.srcB 4 else if x.b then 0xFFFFFFFF else s.dev.ld (v.srcB + 4 * i) 4
        let g := if v.flag 114 then f32ofInt (toSigned 32 g) else g
        let r (y : Machine.Num) : Machine.Num := f32 (fp32.convert y).1
        let up := r ((f32 (s.dev.ld (v.sram (v.imm 0 16)) 4)).mul (f32 g))
        let decay := r ((f32 (s.dev.ld (v.sram (v.imm 0 16) + 4) 4)).mul (f32 a))
        e.elem v.dst v.fmtOut.width i = if x.dst then s.dev.elem v.dst v.fmtOut.width i
          else (convertCode .f32 v.fmtOut (fp32.convert ((r ((f32 a).add up)).sub decay)).1).1 % 2 ^ v.fmtOut.width)

/-- EACC adds landed limb sums to INT64 energies (R179). EBLOCK computes E_block = −Σ φ·h per replica (R144). VNORM writes
integer weights' shares and their sum (R177). CHECK_ROW recomputes a row and reports how many columns differ and the
first that does (R183). LADDER_ROUND arms the take's ladder (R449).
Which accesses can collide is the model's reading (log 75). -/
def Obligations.EnergiesAndChecks : Prop :=
  ∀ (s : State) (p : Port) (k e0 : Nat) (m : Member) (w : Nat) (v : VWord), s.dev.Mirrors →
    s.dev.due p k m w → m.page = .ve e0 → e0 < 16 → s.dev.rd (.ve e0) 0x024 0 = 0 → v = ⟨w, e0⟩ →
    (opcodeOf w = 0x4E → (v.srcA + 16 * v.n ≤ v.dst ∨ v.dst + 8 * v.n ≤ v.srcA) → Makes (.eacc p k) s fun e =>
      e.member p k = some (m.next ((v.n + 63) / 64 + 8)) ∧ s.dev.KeepsMem e v.dst (8 * v.n) ∧
      ∀ i < v.n, e.ld (v.dst + 8 * i) 8 =
        if (v.eaccClash (i / 64)).contains (v.bank (v.dst + 8 * i)) then s.dev.ld (v.dst + 8 * i) 8
        else ((if v.acc then s.dev.ld (v.dst + 8 * i) 8 else 0) + s.dev.ld (v.srcA + 16 * i) 4 +
          s.dev.ld (v.srcA + 16 * i + 4) 4 * 2 ^ 16 + s.dev.ld (v.srcA + 16 * i + 8) 4 * 2 ^ 32 +
          s.dev.ld (v.srcA + 16 * i + 12) 4 * 2 ^ 48) % 2 ^ 64) ∧
    (opcodeOf w = 0x4F → Makes (.eblock p k) s fun e =>
      let M := v.rows
      let row (x : Nat) : Nat := s.dev.ld (v.sram (v.imm 0 16) + 4 * x) 4
      let wd := v.stateBits s.dev
      e.member p k = some (m.next ((M * v.n + 63) / 64 + 8)) ∧ s.dev.KeepsMem e v.dst (8 * v.n) ∧
      ∀ r < v.n,
        let E : Int := -((List.range M).map fun x =>
          let st := if v.eDropB s.dev (x * v.n + r) then 2 ^ wd - 1
            else s.dev.elem (v.srcB + bits (row x) 0 16 * ((v.n * wd + 1023) / 1024 * 128)) wd r
          let φ : Int := if bit (row x) 20 then (if st = bits (row x) 16 4 then 1 else 0) else spinSign st
          φ * toSigned 32 (s.dev.ld (v.srcA + 4 * (x * v.n + r)) 4)).sum
        e.ld (v.dst + 8 * r) 8 = if v.eDropD s.dev r then s.dev.ld (v.dst + 8 * r) 8 else ofSigned 64
          ((if v.acc then (s.dev.ld (v.dst + 8 * r) 8 : Int) else 0) + if v.flag 29 then E / 2 else E)) ∧
    (opcodeOf w = 0x4A → Makes (.vnorm p k) s fun e =>
      let xs := v.scores s.dev
      let mx := if v.flag 114 then f32Max xs else s.dev.ld v.srcB 4
      let ws := xs.map fun x => expt (normArg (v.imm 0 32) mx x).1
      e.member p k = some (m.next (2 * elemBeats v.fmt v.n)) ∧
      e.ld (v.dst + (4 * v.n + 63) / 64 * 64) 8 = ws.sum % 2 ^ 64 ∧
      ∀ i < v.n, e.ld (v.dst + 4 * i) 4 = if (v.clash false i).dst then s.dev.ld (v.dst + 4 * i) 4
        else if ws.sum = 0 then 0
        else fp32.encode (fp64.decode (fp64.encode ((Machine.Num.ofInt (ws.getD i 0)).div (.ofInt ws.sum)))) % 2 ^ 32) ∧
    (opcodeOf w = 0x52 → Makes (.checkRow p k) s fun e =>
      let r := s.dev.ld (v.sram (v.imm 0 16)) 64
      let K := bits r 64 16
      let fa := (Fmt.ofCode (bits r 90 5)).getD .f16
      let fb := (Fmt.ofCode (bits r 95 5)).getD .f16
      let fo := (Fmt.ofCode (bits r 100 5)).getD .f32
      let one (f : Fmt) (base x : Nat) : Machine.Num := f.at (accInt (bits r 105 2)) (s.dev.elem base f.width (f.pos x)) x
      let wrong := (List.range (bits r 80 10)).filter fun c =>
        let x := checkValue (bits r 105 2) (bits r 107 16) (bits r 123 16) (groupWidth fa fb)
          ((List.range K).map (one fa (v.sram (bits r 0 16))))
          ((List.range K).map (one fb (v.sram (bits r 16 16) + c * ((K * fb.width + 511) / 512 * 64))))
        (convertCode x.1 fo x.2).1 != s.dev.elem (v.sram (bits r 32 16)) fo.width c
      e.member p k = some (m.next ((bits r 80 10 + 127) / 128 * ((K + 7) / 8) + 16)) ∧
      s.dev.KeepsMem e (v.sram (bits r 48 16)) 16 ∧
      e.ld (v.sram (bits r 48 16)) 16 = wrong.length + wrong.headD 0xFFFF * 2 ^ 16 ∧
      e.rd (.ve e0) 0x110 0 = wrong.length ∧ e.rd (.ve e0) 0x110 16 = wrong.headD 0xFFFF ∧
      e.rd (.ve e0) 0x060 0 = (s.dev.rd (.ve e0) 0x060 0 + 1) % 2 ^ 64) ∧
    (opcodeOf w = 0x53 → Makes (.ladderRound p k) s fun e =>
      e.member p k = some (m.next 1) ∧ e.mem = s.dev.mem ∧
      ∃ l, (e.take p).ladder = some l ∧ l.ve = e0 ∧ l.recOff = 64 * bits w 0 16 ∧
        l.energies = addEnergies (lrReplicas (l.record s.dev)) [] (s.dev.take p).laden ∧
        ((s.dev.take p).restore = none → l.cands = [] ∧ l.entries = 0 ∧ l.counts = List.replicate 8 0) ∧
        ∀ r, (s.dev.take p).restore = some r → l.entries = r.entries ∧ l.notice = r.notice)

/-! ### Takes and their clapper (R198 to R216) -/

/-- The clapper unit's script: PHASE and CUT wait for the next release of their identifier, at which the unit arrives where
the identifier's member set names it; WATCHDOG sets the limit and shows its low half, or, with the limit 0, that of the
other partition's take (R198, R200, R217). Nothing else changes.
That the unit arrives with its wait, and what the shared CLAP_WATCH shows, is the model's reading (logs 21, 202). -/
def Obligations.ClapperScriptRuns : Prop :=
  ∀ (s : State) (p : Port) (k : Nat) (m : Member) (w : Nat), s.dev.Mirrors → s.dev.due p k m w →
    m.page = .clap →
    (∀ u, u = (if s.dev.inSet p (bits w 0 6) m then
        (s.dev.quiet.setMember p k { m with arrived := some (bits w 0 6) }).setPend p (bits w 0 6) true
        else s.dev.quiet.setMember p k { m with waiting := true }) →
      (opcodeOf w = 0x40 → exec (.phase p k) s = .next { s with
        dev := u.modTake p fun t => { t with phaseAt := [(bits w 0 6, bits w 8 6)] } }) ∧
      (opcodeOf w = 0x41 → exec (.cut p k) s = .next { s with
        dev := u.modTake p fun t => { t with cutAt := [(bits w 0 6, bits w 8 4)] } })) ∧
    (opcodeOf w = 0x42 → exec (.watchdog p k) s = .next { s with
      dev := ((s.dev.quiet.modTake p fun t => { t with watchdog := bits w 0 40 }).wr .clap 0x110 0
        (if bits w 0 40 = 0 then s.dev.watchOf p.other else bits w 0 40 % 2 ^ 32)).setMember p k (m.next 0) })

/-- TAKE_LOAD of a valid command at an idle partition starts validation: the state, MB_TAKE_ID, the command kept and
counted; the other partition's take and memory are untouched (R211, R444). With four commands held it is dropped and
logged. -/
def Obligations.LoadStartsValidation : Prop :=
  ∀ (s : State) (p : Port) (m M : Nat), s.dev.Mirrors → (∀ o, s.dev.canWrite (.host p) (mboxPage p) o) →
    M = putBits m 0 8 1 →
    (s.dev.rd (mboxPage p) 0x120 0 ≠ 4 → mbReserved M = none → bits M 128 64 % 64 = 0 →
      s.dev.dramOwned p (bits M 128 64) 320 = true → s.dev.rdBool .fw 0x104 1 = false → s.dev.takeState p = 0 →
      Makes (.takeLoad p m) s fun e =>
        e.takeState p = 1 ∧ e.rd64 (mboxPage p) 0x128 = bits M 192 64 ∧ e.take p = { cmd := mbOf M } ∧
        e.rd (mboxPage p) 0x040 0 = (s.dev.rd (mboxPage p) 0x040 0 + 1) % 2 ^ 64 ∧ e.mem = s.dev.mem ∧
        e.take p.other = s.dev.take p.other ∧ e.takeState p.other = s.dev.takeState p.other) ∧
    (s.dev.rd (mboxPage p) 0x120 0 = 4 → s.dev.rd (mboxPage p) 0x01C 0 = 0 → Makes (.takeLoad p m) s fun e =>
      e.rd (mboxPage p) 0x018 0 = 1 ∧ e.take p = s.dev.take p ∧ e.takeState p = s.dev.takeState p)

/-- Validation ends: an accepted call sheet is kept and its take is WRITING; a refused one posts its record and the
partition is IDLE (R208, R211). -/
def Obligations.ValidationEnds : Prop :=
  ∀ (s : State) (p : Port) (a : Nat), s.dev.Mirrors → s.dev.takeState p = 1 →
    s.dev.rdBool (.rep p.idx) 0x104 2 = false → a = (s.dev.take p).cmd.csAddr →
    ((s.dev.sheetAt a).check1 = none → (s.dev.sheetAt a).takeId = (s.dev.take p).cmd.takeId) →
    ((s.dev.quiet.validate p a).refusal = none → s.dev.rd .cc 0x024 0 = 0 → s.dev.quiet.standing p (s.dev.quiet.validate p a).sheet = [] →
      Makes (.validationDone p) s fun e =>
        e.takeState p = 2 ∧ (e.take p).cs = (s.dev.quiet.validate p a).sheet ∧ e.take p.other = s.dev.take p.other) ∧
    (∀ r, (s.dev.quiet.validate p a).refusal = some r → (s.dev.take p).cmd.resultAddr + 64 ≤ localSpace →
      Makes (.validationDone p) s fun e =>
        e.takeState p = 0 ∧ e.take p = {} ∧ e.ld (s.dev.take p).cmd.resultAddr 8 = (s.dev.take p).cmd.takeId % 2 ^ 64 ∧
        e.ld ((s.dev.take p).cmd.resultAddr + 8) 1 = r.1 % 256 ∧
        (∀ sec i, r.2 = .entry sec i →
          e.ld ((s.dev.take p).cmd.resultAddr + 20) 4 = sec % 2 ^ 16 + i % 2 ^ 16 * 2 ^ 16) ∧
        s.dev.KeepsMem e (s.dev.take p).cmd.resultAddr 64 ∧
        e.rd (mboxPage p) 0x058 0 = (s.dev.rd (mboxPage p) 0x058 0 + 1) % 2 ^ 64)

/-- WRITING ends, its banks' accepted writes done, in LOADED where the command holds the take, else, as TAKE_GO does from
LOADED, in RUNNING with every script at its first word and the step origin (R209, R211, R220). -/
def Obligations.TakesStartRunning : Prop :=
  ∀ (s : State) (p : Port), s.dev.Mirrors → (s.dev.take p).cs.multi = false →
    (s.dev.takeState p = 2 →
      ((s.dev.take p).cmd.hold = true → Makes (.writingDone p) s fun e =>
        e.takeState p = 3 ∧ e.mem = (s.dev.quiet.ownBanks p).mem ∧ e.take p = s.dev.take p) ∧
      ((s.dev.take p).cmd.hold = false →
        (s.dev.quiet.ownBanks p).staleBlock p
          ((s.dev.take p).cs.blocks.map ((s.dev.quiet.ownBanks p).blockPage p)) = none →
        (s.dev.quiet.ownBanks p).powerCheck p (s.dev.take p).cs = none →
        Makes (.writingDone p) s fun e => e.takeState p = 4 ∧ e.mem = (s.dev.quiet.ownBanks p).mem ∧ (e.take p).step = (s.dev.take p).cs.stepOrigin ∧
          ∀ m ∈ (e.take p).members, m.pc = 0 ∧ m.step = (s.dev.take p).cs.stepOrigin ∧ m.beats = 0 ∧ m.arrived = none ∧
            m.ended = false)) ∧
    (∀ m M : Nat, M = putBits m 0 8 2 → s.dev.takeState p = 3 → (∀ o, s.dev.canWrite (.host p) (mboxPage p) o) →
      s.dev.rd (mboxPage p) 0x120 0 ≠ 4 → mbReserved M = none → s.dev.rdBool .fw 0x104 1 = false →
      bits M 192 64 = s.dev.rd64 (mboxPage p) 0x128 → s.dev.rdBool (.reel p.idx) 0x104 0 = false →
      s.dev.staleBlock p ((s.dev.take p).cs.blocks.map (s.dev.blockPage p)) = none →
      s.dev.powerCheck p (s.dev.take p).cs = none →
      Makes (.takeGo p m) s fun e => e.takeState p = 4 ∧ e.mem = s.dev.mem ∧ (e.take p).step = (s.dev.take p).cs.stepOrigin ∧
        ∀ x ∈ (e.take p).members, x.pc = 0 ∧ x.step = (s.dev.take p).cs.stepOrigin ∧ x.beats = 0 ∧ x.arrived = none ∧
          x.ended = false)

/-- TAKE_ABORT makes a running take stop at its next occurrence and ends a load with the status ABORTED; TAKE_UNLOAD takes
a loaded take back to IDLE; both name the take by its id (R213). Banks that go back to their owners finish the writes
they had accepted (R220, R221). -/
def Obligations.AbortAndUnload : Prop :=
  ∀ (s : State) (p : Port) (m M : Nat) (ab : Bool), s.dev.Mirrors → (∀ o, s.dev.canWrite (.host p) (mboxPage p) o) →
    M = putBits m 0 8 (if ab then 3 else 4) → s.dev.rd (mboxPage p) 0x120 0 ≠ 4 → mbReserved M = none →
    s.dev.rdBool .fw 0x104 1 = false → bits M 192 64 = s.dev.rd64 (mboxPage p) 0x128 →
    (ab = true → s.dev.takeState p = 4 → Makes (.takeAbort p m) s fun e =>
      (e.take p) = { s.dev.take p with stops := { (s.dev.take p).stops with abort := true } } ∧ e.takeState p = 4 ∧
      e.mem = s.dev.mem) ∧
    (ab = true → 1 ≤ s.dev.takeState p → s.dev.takeState p ≤ 3 →
      (s.dev.take p).cmd.resultAddr + 64 ≤ localSpace → Makes (.takeAbort p m) s fun e =>
      e.takeState p = 0 ∧ e.take p = {} ∧ e.ld ((s.dev.take p).cmd.resultAddr + 8) 1 = 7 ∧
      (if s.dev.takeState p = 1 then s.dev else s.dev.quiet.restoreUnits p).KeepsMem e
        (s.dev.take p).cmd.resultAddr 64) ∧
    (ab = false → s.dev.takeState p = 3 → Makes (.takeUnload p m) s fun e =>
      e.takeState p = 0 ∧ e.take p = {} ∧ e.mem = (s.dev.quiet.restoreUnits p).mem ∧ e.rd64 (mboxPage p) 0x128 = 0 ∧
      e.take p.other = s.dev.take p.other)

/-- An occurrence that every member has come to, with no stop cause, releases 48 beats after its last arrival: every
arrived member goes on from the common count, the step counter of every member that does not mark becomes that of the
marking members, the pending bit falls. At END the take is POSTING with status 0; with a stop cause it is POSTING with that status and the identifier
(R200, R201, R203, R204). WATCHDOG_EXPIRY at an occurrence some member waits at stops the take there with the status
of the first stop cause, TIMEOUT with no other (R198, R215).
Marking members whose counts differ stop the take with the status CLAPPER (R200). When a stop resolves is the model's
reading (log 23), and that the take's beat counter never falls (log 203). -/
def Obligations.OccurrencesResolve : Prop :=
  (∀ (s : State) (p : Port) (id beat step : Nat), s.dev.Mirrors → s.dev.running p = true →
    (s.dev.take p).started = true → (s.dev.take p).withheld = none → id ∉ (s.dev.take p).xsent →
    s.dev.complete p id = true → s.dev.roundHolds p id = false → (s.dev.take p).reds = [] →
    (s.dev.take p).failedLinks = 0 →
    (s.dev.take p).cs.multi = false → (s.dev.take p).cs.cls = 0 → (s.dev.take p).phaseAt = [] →
    (s.dev.take p).cutAt = [] → s.dev.rd .clap 0x024 0 = 0 →
    (∀ x ∈ (s.dev.take p).here id, opcodeOf (s.dev.scriptWord (s.dev.take p) x.2 x.2.pc) ≠ 0x04) →
    ((s.dev.take p).stops.status = 0 → (∃ a ∈ (s.dev.take p).marks id, ∃ b ∈ (s.dev.take p).marks id, a ≠ b) →
      Makes (.occurrenceRelease p id) s fun e =>
        e.takeState p = 5 ∧ (e.take p).status = 4 ∧ (e.take p).stopId = id) ∧
    ((∀ a ∈ (s.dev.take p).marks id, ∀ b ∈ (s.dev.take p).marks id, a = b) →
    beat = ((((s.dev.take p).here id).map (·.2.beats)).foldl max 0 + 48) % 2 ^ 64 →
    step = (((s.dev.take p).marks id).head?).getD (s.dev.take p).step →
    ((s.dev.take p).stops.status = 0 → Makes (.occurrenceRelease p id) s fun e =>
      (e.take p).members = (s.dev.take p).members.map (fun m =>
        let m := { m with step := if m.marking then m.step else step }
        if m.arrived = some id then
          (let r := { m with arrived := none, beats := beat, refresh := 0, retry := 0 }
           if id = s.dev.endId p then { r with ended := true } else r.next 0) else m) ∧
      (e.take p).beat = max (s.dev.take p).beat beat ∧ (e.take p).step = step ∧ e.mem = s.dev.mem ∧
      (id ≠ s.dev.endId p → e.takeState p = 4) ∧
      (id = s.dev.endId p → e.takeState p = 5 ∧ (e.take p).status = 0)) ∧
    ((s.dev.take p).stops.status ≠ 0 → Makes (.occurrenceRelease p id) s fun e =>
      e.takeState p = 5 ∧ (e.take p).status = (s.dev.take p).stops.status ∧ (e.take p).stopId = id ∧
      (e.take p).beat = max (s.dev.take p).beat beat ∧ (e.take p).step = step))) ∧
  (∀ (s : State) (p : Port) (id : Nat), s.dev.running p = true → (s.dev.take p).watchdog ≠ 0 →
    (s.dev.take p).withheld = none → (s.dev.take p).here id ≠ [] → (s.dev.take p).cs.multi = false →
    Makes (.watchdogExpiry p id) s fun e =>
      e.takeState p = 5 ∧ (e.take p).status = { (s.dev.take p).stops with timeout := true }.status ∧
      (e.take p).stopId = id)

/-- POSTING of a take without a ladder and with nothing to retire: the completion record and the dailies record stand at
the result address, the banks are their owners' again, the partition is IDLE, and the take is counted as done or stopped
(R212, R214, R216, R221). -/
def Obligations.PostingReports : Prop :=
  ∀ (s : State) (p : Port), s.dev.Mirrors → s.dev.takeState p = 5 → (s.dev.take p).ladder = none →
    (s.dev.take p).retire = [] → (s.dev.take p).cmd.resultAddr + 320 ≤ localSpace →
    Makes (.posting p) s fun e =>
      e.bytes (s.dev.take p).cmd.resultAddr 320 = s.dev.completion (s.dev.take p) ++ s.dev.dailies (s.dev.take p) ∧
      (s.dev.quiet.restoreUnits p).KeepsMem e (s.dev.take p).cmd.resultAddr 320 ∧ e.takeState p = 0 ∧ e.take p = {} ∧
      e.rd64 (mboxPage p) 0x128 = 0 ∧ e.take p.other = s.dev.take p.other ∧
      e.rd (mboxPage p) (if (s.dev.take p).status = 0 then 0x048 else 0x050) 0 =
        (s.dev.rd (mboxPage p) (if (s.dev.take p).status = 0 then 0x048 else 0x050) 0 + 1) % 2 ^ 64

/-- A reel capture of a withheld occurrence zeroes the area's magic word; when it is done the reel stands in the area
whole, sealed where the take uses the DRBG or the port asks for it, the capture is counted and reports OK, and the
occurrence is withheld no longer; one that must be sealed without a key writes nothing and reports NO_KEY, and one
during which a lasting fault lost data writes nothing and reports READ_ERROR (R338, R339, R341, R344). -/
def Obligations.ReelsCaptured : Prop :=
  ∀ (s : State) (p : Port) (id area a : Nat), s.dev.running p = true → (s.dev.take p).withheld = some (id, area) →
    a = ((s.dev.take p).cs.reels.getD area (0, 0)).1 →
    ((s.dev.reel p).capturing = false → a + 4 ≤ localSpace → Makes (.reelCapture p) s fun e =>
      e.ld a 4 = 0 ∧ s.dev.KeepsMem e a 4 ∧ (e.reel p).capturing = true ∧ e.take p = s.dev.take p) ∧
    (∀ sl key bs, (s.dev.reel p).capturing = true →
      sl = ((s.dev.take p).usesDrbg || s.dev.rdBool (.reel p.idx) 0x100 4) →
      key = (if sl then (s.dev.reel p).key else none) → bs = s.dev.reelBytes p id key →
      ((s.dev.take p).stops.lost = true → Makes (.captureDone p) s fun e =>
        e.mem = s.dev.mem ∧ (e.reel p).capturing = false ∧ (e.take p).withheld = none ∧
        e.rd (.reel p.idx) 0x104 8 = 0x5C) ∧
      ((s.dev.take p).stops.lost = false → sl = true → key = none → Makes (.captureDone p) s fun e =>
        e.mem = s.dev.mem ∧ (e.reel p).capturing = false ∧ (e.take p).withheld = none ∧
        e.rd (.reel p.idx) 0x104 8 = 0x5B) ∧
      ((s.dev.take p).stops.lost = false → (sl = true → ∃ x, key = some x ∧ x.used < 2 ^ 32) →
        a + bs.length ≤ localSpace →
        Makes (.captureDone p) s fun e =>
          e.bytes a bs.length = bs ∧ s.dev.KeepsMem e a bs.length ∧ (e.reel p).capturing = false ∧
          (e.take p).withheld = none ∧ e.rd (.reel p.idx) 0x104 8 = 0 ∧
          e.rd (.reel p.idx) 0x040 0 = (s.dev.rd (.reel p.idx) 0x040 0 + 1) % 2 ^ 64))

/-! ### Mesh and service arbiters (R244 to R266) -/

/-- A sound scheduled or delta flit at a router of a running take leaves by the outputs its slot names, unchanged, and is
counted by its virtual channel; where the slot names none the take meets a schedule fault (R250, R251). A service flit
goes column first, then row, in a beat its output is free, where the next input buffer has a place; else the router
holds it (R252).
That a router with nothing else to send serves it at once is the model's reading (log 209). -/
def Obligations.FlitsForwarded : Prop :=
  ∀ (s : State) (c r beat vc : Nat) (x : MeshIn), c < 16 → r < 11 → ¬(r = 10 ∧ c % 4 = 3) →
    1 ≤ x.port → x.port ≤ 5 → bit (portsPresent c r) (x.port - 1) = true → x.payload < 2 ^ 1024 →
    bit (s.dev.rd (.router c r) 0x104 1) (x.port - 1) = false → hopOk x.payload x.side = true →
    s.dev.rd (.router c r) 0x024 0 = 0 → tget [] s.dev.held (nodeId c r) = [] → vc = bits x.side 0 3 →
    (∀ n slot p outs, s.dev.tableOf c r = some (p, n) → slot = s.dev.slotWord c r (beat % n) → bits slot 15 3 = 0 →
      vc < 3 → outs = ((List.range 5).map (· + 1)).filter (fun o => slotOut slot o = x.port) →
      (outs ≠ [] → Makes (.meshFlit c r beat [x] none) s fun e =>
        e.out = outs.map (fun o => .flit (nodeId c r) o vc x.payload x.side) ∧
        e.rd (.router c r) (0x040 + 8 * vc) 0 = (s.dev.rd (.router c r) (0x040 + 8 * vc) 0 + 1) % 2 ^ 64 ∧
        e.mem = s.dev.mem ∧ ∀ q, e.take q = s.dev.take q) ∧
      (outs = [] → Makes (.meshFlit c r beat [x] none) s fun e =>
        e.out = [] ∧ (e.take p).stops.schedule = true ∧ e.rd (.router c r) 0x018 1 = 1 ∧ e.mem = s.dev.mem)) ∧
    (∀ o free, vc = 4 → o = serviceOut c r (bits x.side 3 8) →
      free = (match s.dev.tableOf c r with
        | some t => slotOut (s.dev.slotWord c r (beat % t.2)) o == 0
        | none => true) →
      (free = true → s.dev.hasCredit c r o = true → Makes (.meshFlit c r beat [x] none) s fun e =>
        e.out = [.flit (nodeId c r) o 4 x.payload x.side] ∧ tget [] e.held (nodeId c r) = [] ∧
        e.rd (.router c r) 0x060 0 = (s.dev.rd (.router c r) 0x060 0 + 1) % 2 ^ 64 ∧ e.mem = s.dev.mem) ∧
      ((∃ t, s.dev.tableOf c r = some t ∧ slotOut (s.dev.slotWord c r (beat % t.2)) o ≠ 0) →
        Makes (.meshFlit c r beat [x] none) s fun e =>
          e.out = [] ∧ tget [] e.held (nodeId c r) = [⟨x.port, x.payload, x.side⟩] ∧
          e.rd (.router c r) 0x078 0 = (s.dev.rd (.router c r) 0x078 0 + 1) % 2 ^ 64 ∧ e.mem = s.dev.mem))

/-- A request at an idle port with nothing waiting holds it from the next beat; at a held port it waits, the holder's own
next one too. At the end of a grant, at a burst's limit, at a revocation and at a withdrawal the port goes to a waiting
requester of least rank (priority, then least recently granted, then code); a transfer cut by its burst limit waits again
for its rest, a revoked one for its whole, and a pump engine that slept at its grant asks again (R257 to R261, R284). -/
def Obligations.ArbitersGrant : Prop :=
  ∀ (s : State) (i q beat : Nat) (a : ArbAt), a = ⟨i, q⟩ → a.ok = true →
    (∀ k n, (arbClass i k).isSome = true → 1 ≤ n → n ≤ arbMax i → (∀ y ∈ (s.dev.arb a).waiting, y.req ≠ k) →
      ((s.dev.arb a).holder = none → (s.dev.arb a).waiting = [] → Makes (.serviceRequest i q [(k, n)] beat) s fun e =>
        (e.arb a).holder = some ⟨k, n, n, beat + 1⟩ ∧ (e.arb a).waiting = [] ∧
        e.rd (.arb i) (0x300 + 4 * q) 0 = k ∧ e.rd (.arb i) (0x300 + 4 * q) 4 = 1 ∧
        e.rd (.arb i) 0x040 0 = (s.dev.rd (.arb i) 0x040 0 + 1) % 2 ^ 64) ∧
      (∀ h, (s.dev.arb a).holder = some h → Makes (.serviceRequest i q [(k, n)] beat) s fun e =>
        (e.arb a).holder = some h ∧ (e.arb a).waiting = (s.dev.arb a).waiting ++ [⟨k, n, n, beat⟩])) ∧
    (∀ h, (s.dev.arb a).holder = some h →
      let goes (e : Dev) (ws : List ArbReq) : Prop := ∃ g ∈ ws,
        (∀ y ∈ ws, s.dev.arbRank a g ≤ s.dev.arbRank a y) ∧ (e.arb a).holder = some ⟨g.req, g.len, g.left, beat + 1⟩
      let ws := (s.dev.arb a).waiting
      let n := beat + 1 - h.first
      (beat + 1 = h.first + h.left → Makes (.arbiterDecision i q beat) s fun e =>
        (ws = [] → (e.arb a).holder = none) ∧ (ws ≠ [] → goes e ws)) ∧
      (h.first ≤ beat → s.dev.arbLimit a h ≤ n → n < h.left → Makes (.burstExpiry i q beat) s fun e =>
        e.rd (.arb i) 0x058 0 = (s.dev.rd (.arb i) 0x058 0 + 1) % 2 ^ 64 ∧
        goes e (⟨h.req, h.len, h.left - n, beat + 1⟩ :: ws)) ∧
      (∀ cl, arbClass i h.req = some cl → bit (s.dev.rd (.arb i) 0x108 0) cl = true → h.first ≤ beat → n < h.left →
        (∃ y ∈ ws, s.dev.rd (.arb i) (0x200 + 4 * h.req) 0 < s.dev.rd (.arb i) (0x200 + 4 * y.req) 0) →
        Makes (.revocation i q beat) s fun e => goes e ws ∧ ⟨h.req, h.len, h.len, beat + 1⟩ ∈ (e.arb a).waiting ∧
          e.rd (.arb i) 0x048 0 = (s.dev.rd (.arb i) 0x048 0 + 1) % 2 ^ 64) ∧
      (beat = h.first → Makes (.withdrawal i q beat) s fun e =>
        (ws = [] → (e.arb a).holder =
          if s.dev.arbAsleep a h.req then some ⟨h.req, h.len, h.left, beat + 2⟩ else none) ∧
        (ws ≠ [] → goes e ws ∧
          (s.dev.arbAsleep a h.req = true → ⟨h.req, h.len, h.left, beat + 1⟩ ∈ (e.arb a).waiting)) ∧
        e.rd (.arb i) 0x050 0 = (s.dev.rd (.arb i) 0x050 0 + 1) % 2 ^ 64))

/-! ### Scratchpads and vaults (R218 to R243) -/

/-- A host's owner write asks for a handover, to an owner it may name; one that names a code it may not set, an engine of
another partition, or a bank that a take or the control complex has, or is to have, changes nothing and logs
OWNER_DENIED. The handover's end, the accepted write first, puts the owner asked for in force. A power request is refused
while a take has the bank, and ignored where it names no state; its transition puts the state in force, a bank woken from
OFF reading zero, a block with a bank in OFF at epoch 0. The sideband's and the other port's writes never reach the
registers. Locks of banks and vaults go to the activity of the highest precedence (R219, R220, R224, R225, R230).
That a lower holder of a lock yields at once is the model's choice (log 84). -/
def Obligations.BanksChangeHands : Prop :=
  ∀ (s : State) (c b : Nat), s.dev.Mirrors → c < 16 → b < banksOf c →
    (∀ p v x no, s.dev.canWrite (.host p) (.vc c) (0x1000 + 16 * b) → x = bits v 0 3 →
      no = (decide (5 < x) || [1, 5].contains x || [1, 5].contains (s.dev.bankField c b 4 0) ||
        (s.dev.bankField c b 4 16 == 1 && [1, 5].contains (s.dev.bankField c b 0 0)) || (x == 3 && p != .a) ||
        (x == 4 && p != .b) || (x == 2 && s.dev.owner (.pump (bits v 8 5)) != s.dev.owner (bankBlock c b))) →
      Makes (.bankOwnerWrite (.host p) c b v) s fun e =>
        e.mem = s.dev.mem ∧ e.bankField c b 4 0 = s.dev.bankField c b 4 0 ∧
        (no = false → e.bankField c b 0 0 = x ∧ e.bankField c b 0 8 = bits v 8 5 ∧ e.bankField c b 4 16 = 1) ∧
        (no = true → e.bankField c b 0 0 = s.dev.bankField c b 0 0 ∧ e.bankField c b 0 8 = s.dev.bankField c b 0 8 ∧
          e.bankField c b 4 16 = s.dev.bankField c b 4 16 ∧
          (bit (s.dev.rd (.vc c) 0x01C 0) 7 = false → e.rd (.vc c) 0x018 0 = 1))) ∧
    (∀ p req r, s.dev.canWrite (.host p) (.vc c) (0x1008 + 16 * b) → r = req % 4 →
      Makes (.bankPowerRequest (.host p) c b req) s fun e =>
        e.mem = s.dev.mem ∧ e.bankField c b 8 4 = s.dev.bankField c b 8 4 ∧
        (r < 3 → s.dev.bankField c b 4 0 ≠ 1 → e.bankField c b 8 0 = r) ∧
        (r = 3 ∨ s.dev.bankField c b 4 0 = 1 → e.bankField c b 8 0 = s.dev.bankField c b 8 0) ∧
        (r < 3 → s.dev.bankField c b 4 0 = 1 → bit (s.dev.rd (.vc c) 0x01C 0) 7 = false → e.rd (.vc c) 0x018 0 = 1)) ∧
    (∀ w v req i, (w = .sideband ∨ ∃ p, w = .host p ∧ s.dev.hostUp p ∧ s.dev.owner (.vc c) ≠ p.idx ∧
        s.dev.owner (.vc c) ≠ 2) → i ∈ [Instr.bankOwnerWrite w c b v, .bankPowerRequest w c b req] →
      Makes i s fun e => e.mem = s.dev.mem ∧ (w = .sideband → s.dev.powered = true → e.resp = .denied) ∧
        ∀ off ∈ [0, 4, 8], ∀ lo, e.bankField c b off lo = s.dev.bankField c b off lo) ∧
    (s.dev.bankField c b 4 16 = 1 → s.dev.rd (.vc c) 0x024 0 = 0 → Makes (.handoverComplete c b) s fun e =>
      e.bankField c b 4 0 = s.dev.bankField c b 0 0 ∧ e.bankField c b 4 8 = s.dev.bankField c b 0 8 ∧
      e.bankField c b 4 16 = 0 ∧ (findKey (bankKey (c, b)) s.dev.banks.waiting = none →
        (findKey (bankKey (c, b)) s.dev.banks.merges = none → e.mem = s.dev.mem) ∧
        ∀ m, findKey (bankKey (c, b)) s.dev.banks.merges = some m → m.addr + m.data.length ≤ localSpace →
          e.bytes m.addr m.data.length = m.data ∧ s.dev.KeepsMem e m.addr m.data.length ∧
          .bankDone c b m.addr .ok ∈ e.out)) ∧
    (s.dev.bankField c b 4 16 ≠ 1 → findKey (bankKey (c, b)) s.dev.banks.waiting = none →
      exec (.handoverComplete c b) s = .next { s with dev := s.dev.quiet }) ∧
    (∀ st rq, st = s.dev.bankField c b 8 4 → rq = s.dev.bankField c b 8 0 →
      (st = rq → s.dev.bankField c b 8 9 = 0 →
        exec (.bankTransitionDone c b) s = .next { s with dev := s.dev.quiet }) ∧
      (st ≠ rq ∨ s.dev.bankField c b 8 9 ≠ 0 → Makes (.bankTransitionDone c b) s fun e =>
        e.bankField c b 8 4 = rq ∧ e.bankField c b 8 8 = 0 ∧ e.bankField c b 8 9 = 0 ∧
        (rq = 2 → e.rd (bankBlock c b) 0x030 0 = 0) ∧
        (st = 2 → rq ≠ 2 → ∀ x, (bankSpan c b).1 ≤ x → x < (bankSpan c b).1 + (bankSpan c b).2 → e.mem.get x = 0) ∧
        (findKey (bankKey (c, b)) s.dev.banks.merges = none →
          s.dev.KeepsMem e (bankSpan c b).1 (bankSpan c b).2 ∧ (¬(st = 2 ∧ rq ≠ 2) → e.mem = s.dev.mem)))) ∧
    (∀ vault n T h a, (vault = true ∧ n < 32 ∧ T = vaultLock (32 * c + n) ∨
        vault = false ∧ n < banksOf c ∧ T = bankLock c n) → h = s.dev.lock T →
      (1 ≤ a ∧ a ≤ 5 → Makes (.lockRequest vault c n a) s fun e => e.mem = s.dev.mem ∧
        (h = 0 ∨ h = a → e.lock T = a) ∧
        (h ≠ 0 → a < h → e.lock T = a ∧ (T, h) ∈ e.banks.lockWait) ∧
        (h ≠ 0 → h < a → e.lock T = h ∧ (T, a) ∈ e.banks.lockWait)) ∧
      (a = 0 ∨ 5 < a → exec (.lockRequest vault c n a) s = .next { s with dev := s.dev.quiet }))

/-- The owner of a bank that is on reads and writes it, also through the alias windows, which set or clear the bits
written; a write of part of a word is a merge, whose write step lands its bytes and completes it; another requester is
refused and counted; the transparent test leaves every bit as it was (R219, R222, R223, R226, R227).
The order of a bank's checks and a region tested at once are the model's choices (logs 80, 82). -/
def Obligations.BanksServe : Prop :=
  ∀ (s : State) (c b : Nat), c < 16 → b < banksOf c →
    (∀ who addr len vw a pg pg' wc, sramView addr = (vw, a) → bankOfAddr a = some (pg, c, b) →
      bankOfAddr (a + len - 1) = some (pg', c, b) → whoCode who = some wc → s.dev.bankField c b 4 16 = 0 →
      findKey (bankKey (c, b)) s.dev.banks.merges = none → s.dev.rd (.vc c) 0x024 0 = 0 →
      (ownerIs (s.dev.bankField c b 4 0) (s.dev.bankField c b 4 8) wc = true → s.dev.bankOn c b = true →
        Makes (.sramAccess who addr len none .clean) s (fun e =>
          e.mem = s.dev.mem ∧ e.resp = (Served.ok (s.dev.bytes a len)).resp) ∧
        ∀ bs, bs.length = len →
          (vw = 0 → a % 8 = 0 → len % 8 = 0 → Makes (.sramAccess who addr len (some bs) .clean) s fun e =>
            e.bytes a len = bs ∧ s.dev.KeepsMem e a len ∧ e.resp = .ok) ∧
          (vw = 0 ∧ ¬(a % 8 = 0 ∧ len % 8 = 0) ∨ vw ≠ 0 ∧ len ∈ [1, 4, 8] ∧ a % len = 0 →
            Makes (.sramAccess who addr len (some bs) .clean) s fun e => e.mem = s.dev.mem ∧ e.resp = .none ∧
              findKey (bankKey (c, b)) e.banks.merges = some ⟨a, viewBytes vw (s.dev.bytes a len) bs⟩) ∧
          (vw ≠ 0 → ¬(len ∈ [1, 4, 8] ∧ a % len = 0) → Makes (.sramAccess who addr len (some bs) .clean) s fun e =>
            e.mem = s.dev.mem ∧ e.resp = .error)) ∧
      (ownerIs (s.dev.bankField c b 4 0) (s.dev.bankField c b 4 8) wc = false → s.dev.bankField c b 4 0 ≠ 1 →
        ∀ data, (vw = 0 ∨ data = none) → Makes (.sramAccess who addr len data .clean) s fun e =>
          e.mem = s.dev.mem ∧ e.resp = .error ∧
          e.rd (.vc c) 0x068 0 = (s.dev.rd (.vc c) 0x068 0 + 1) % 2 ^ 64)) ∧
    (∀ m, findKey (bankKey (c, b)) s.dev.banks.merges = some m →
      findKey (bankKey (c, b)) s.dev.banks.waiting = none → m.addr + m.data.length ≤ localSpace →
      Makes (.mergeWrite c b) s fun e =>
        e.bytes m.addr m.data.length = m.data ∧ s.dev.KeepsMem e m.addr m.data.length ∧
        .bankDone c b m.addr .ok ∈ e.out) ∧
    (s.dev.rdBool (.vc c) 0x100 2 = true → s.dev.rd (.vc c) 0x104 10 = b → s.dev.testable c b = true →
      s.dev.lock (bankLock c b) = 0 → s.dev.rd (.vc c) 0x024 0 = 0 →
      Makes (.testRegion c .clean) s fun e => e.mem = s.dev.mem ∧
        e.rd (.vc c) 0x078 0 = (s.dev.rd (.vc c) 0x078 0 + 1) % 2 ^ 64 ∧
        tget 0 e.banks.region c = (if tget 0 s.dev.banks.region c + 1 = bankRegions c b then 0
          else tget 0 s.dev.banks.region c + 1)) ∧
    (s.dev.rdBool (.vc c) 0x100 2 = true → Makes (.testSkipBank c) s fun e => e.mem = s.dev.mem ∧
      tget 0 e.banks.region c = 0 ∧
      e.rd (.vc c) 0x104 10 = s.dev.nextBank c (s.dev.rd (.vc c) 0x104 10))

/-- A vault of the requester's partition serves reads and writes within a line; a service access whose beat a scheduled one
has taken waits, and a scheduled one that meets another it does not come before reads all ones or writes nothing, a bank
collision that stops the take (R18, R19, R24, R232). While it is cleared a vault serves nobody, and its end leaves zeros. Refreshes, their delays, layer sensors and scrubbed lines are counted and leave memory alone (R231 to
R239).
The order of a vault's checks is the model's choice (log 81). -/
def Obligations.VaultsServe : Prop :=
  ∀ (s : State) (v : Nat), s.dev.Mirrors → v < 512 →
    (∀ who addr len member beat, addr / 2 ^ 27 = v → 1 ≤ len → addr % 64 + len ≤ 64 → s.dev.rd (vaultPage v) 0x024 0 = 0 →
      (∀ p, who = .take p → ∃ m, s.dev.member p member = some m ∧ s.dev.running p = true ∧
        ∀ wr bs, s.dev.vaultRivals ⟨beat, member, wr, addr, bs⟩ = []) →
      ((∀ p, who ≠ .take p) → s.dev.beatTaken v beat = false) →
      (s.dev.vaultField v 4 0 ≠ 1 → s.dev.vaultField v 0xC 0 ≠ 3 →
        (∀ x, s.dev.whoPart who = some x → x = s.dev.vaultField v 0xC 0 ∧ s.dev.guarded v = false) →
        Makes (.vaultAccess who addr len none .clean member beat) s (fun e =>
          e.mem = s.dev.mem ∧ e.resp = (Served.ok (s.dev.bytes addr len)).resp) ∧
        ∀ bs, bs.length = len → Makes (.vaultAccess who addr len (some bs) .clean member beat) s fun e =>
          e.bytes addr len = bs ∧ s.dev.KeepsMem e addr len ∧ e.resp = .ok) ∧
      (s.dev.vaultField v 4 0 = 1 → ∀ data, Makes (.vaultAccess who addr len data .clean member beat) s fun e =>
        e.mem = s.dev.mem ∧ e.resp = .error)) ∧
    (∀ who addr len data member beat, addr / 2 ^ 27 = v → 1 ≤ len → addr % 64 + len ≤ 64 →
      ((∀ p, who ≠ .take p) → s.dev.beatTaken v beat = true →
        exec (.vaultAccess who addr len data .clean member beat) s = .next { s with dev := s.dev.quiet }) ∧
      (∀ p m x, who = .take p → s.dev.member p member = some m → s.dev.running p = true →
        x = ⟨beat, member, data.isSome, addr, data.getD []⟩ → (∃ y ∈ s.dev.vaultRivals x, x.before y = false) →
        Makes (.vaultAccess who addr len data .clean member beat) s fun e =>
          e.mem = s.dev.mem ∧ (e.take p).stops.schedule = true ∧ (data = none → e.resp = .data (2 ^ (8 * len) - 1)))) ∧
    Makes (.refresh v []) s (fun e => e.mem = s.dev.mem ∧
      e.rd (vaultPage v) 0x050 0 = (s.dev.rd (vaultPage v) 0x050 0 + 1) % 2 ^ 64) ∧
    (∀ p k n m, s.dev.running p = true → s.dev.member p k = some m → Makes (.refresh v [⟨p, k, n⟩]) s fun e =>
      e.mem = s.dev.mem ∧ e.member p k = some { m with beats := m.beats + n, refresh := m.refresh + n }) ∧
    (∀ c layer temp, c < 16 → layer < 4 → Makes (.layerSensorReading c layer temp) s fun e =>
      e.mem = s.dev.mem ∧ tget 0 e.banks.temps (4 * c + layer) = temp % 256 ∧
      (85 < temp % 256 → e.rd (.vc c) 0x104 1 = 1)) ∧
    (s.dev.rdBool (vaultPage v) 0x100 1 = true → s.dev.vaultField v 4 0 = 0 → s.dev.lock (vaultLock v) = 0 →
      s.dev.rd (vaultPage v) 0x024 0 = 0 → Makes (.scrubLine v .clean) s fun e => e.mem = s.dev.mem ∧
        e.rd (vaultPage v) 0x060 0 = (s.dev.rd (vaultPage v) 0x060 0 + 1) % 2 ^ 64 ∧
        tget 0 e.banks.scrub v = (tget 0 s.dev.banks.scrub v + 1) % 2 ^ 21) ∧
    (∀ p, s.dev.canWrite (.host p) (vaultPage v) (0x200 + 16 * (v % 32)) → s.dev.guarded v = false →
      s.dev.vaultField v 0 0 ≠ 1 → s.dev.vaultField v 4 0 = 0 → Makes (.vaultClear (.host p) v) s fun e =>
        e.vaultField v 4 0 = 1 ∧ e.mem = s.dev.mem) ∧
    (s.dev.vaultField v 4 0 = 1 → Makes (.vaultClearDone v) s fun e => e.vaultField v 4 0 = 0 ∧
      (∀ x, v * 2 ^ 27 ≤ x → x < (v + 1) * 2 ^ 27 → e.mem.get x = 0) ∧ s.dev.KeepsMem e (v * 2 ^ 27) (2 ^ 27))

/-! ### Wells, completion rings and pump engines (R267 to R290) -/

/-- A doorbell of the owner sets the well's tail (R269); a configuration write sets a disabled well up, from head and tail
0 when it enables it, and gives an enabled one only its priority and interrupt count and logs CFG_BUSY; a ring starts empty with phase
1; the host moves a ring's head; WELL_CTRL stops an idle channel, resumes or skips a halted program (R285, R286). -/
def Obligations.WellsAndRingsFollow : Prop :=
  ∀ (s : State) (p : Port) (n k w : Nat), s.dev.Mirrors → n < 32 → k < 2048 → w = wellOf n k → s.dev.hostUp p →
    s.dev.pumpPort n = some p →
    (∀ v, bits v 0 16 < s.dev.wellSize w → Makes (.doorbell p w v) s fun e =>
      e.wellTail w = bits v 0 16 ∧ e.wellHead w = s.dev.wellHead w ∧ e.mem = s.dev.mem ∧
      e.rd .wellHdr 0x040 0 = (s.dev.rd .wellHdr 0x040 0 + 1) % 2 ^ 64) ∧
    (∀ v, v < 2 ^ 32 → wordReserved (.well w) 0x08 v = false → s.dev.canWrite (.host p) (.well w) 0x08 →
      Makes (.wellCfgWrite (.host p) w v) s fun e =>
        e.rd (.well w) 0x08 8 = bits v 8 4 ∧ e.rd (.well w) 0x08 24 = bits v 24 8 ∧
        (s.dev.wellOn w = false → e.rd (.well w) 0x08 0 = bits v 0 5 ∧ e.rd (.well w) 0x08 12 = bits v 12 11 ∧
          e.rd (.well w) 0x08 23 = bits v 23 1 ∧ (bit v 23 = true → e.wellHead w = 0 ∧ e.wellTail w = 0)) ∧
        (s.dev.wellOn w = true → bit (s.dev.rd .wellHdr 0x01C 0) 4 = false → e.rd .wellHdr 0x018 0 = 1) ∧
        (s.dev.wellOn w = true → e.rd (.well w) 0x08 0 = s.dev.rd (.well w) 0x08 0 ∧ e.wellOn w = true ∧
          e.wellHead w = s.dev.wellHead w ∧ e.wellTail w = s.dev.wellTail w)) ∧
    (∀ i v, i < 2048 → v < 2 ^ 32 → wordReserved (cringOf p i) 0x08 v = false →
      s.dev.canWrite (.host p) (cringOf p i) 0x08 → s.dev.ringWaiters p i = [] →
      Makes (.cringCfgWrite (.host p) (2048 * p.idx + i) v) s fun e =>
        e.rd (cringOf p i) 0x08 0 = bits v 0 5 ∧ e.rd (cringOf p i) 0x08 8 = bits v 8 1 ∧
        (s.dev.rdBool (cringOf p i) 0x08 8 = false → bit v 8 = true → e.rd (cringOf p i) 0x0C 0 = 0 ∧
          e.rd (cringOf p i) 0x0C 16 = 0 ∧ e.rd (cringOf p i) 0x10 1 = 1)) ∧
    (∀ i h, i < 2048 → s.dev.canWrite (.host p) (cringOf p i) 0x0C → s.dev.ringWaiters p i = [] →
      Makes (.cringHeadWrite (.host p) (2048 * p.idx + i) h) s fun e =>
        e.rd (cringOf p i) 0x0C 16 = h % 2 ^ 16 ∧ e.rd (cringOf p i) 0x0C 0 = s.dev.rd (cringOf p i) 0x0C 0) ∧
    (s.dev.canWrite (.host p) (.well w) 0x14 →
      (s.dev.prog n = none → (s.dev.chan n k).halted = none → Makes (.stop (.host p) w) s fun e =>
        e.wellOn w = false ∧ e.mem = s.dev.mem) ∧
      (∀ g, (s.dev.chan n k).halted = some g →
        Makes (.resume (.host p) w) s (fun e => (e.chan n k).halted = none ∧ (e.chan n k).resumed = some g) ∧
        Makes (.skip (.host p) w) s fun e => (e.chan n k).halted = none ∧
          e.wellHead w = (s.dev.wellHead w + 1) % s.dev.wellSize w))

/-- A free engine takes the ready channel of highest rank and reads its entry, or goes on with a resumed program. FILL writes its pattern to host memory line
by line; MOVE and COMPARE first read what lies there; LOOP opens its body; WAIT waits, goes on once its condition
holds, and ends its program at its timeout; SIGNAL posts its semaphore (R271 to R277, R283).
Host reads leave as requests and come back as commands, the model's choice (log 100). -/
def Obligations.PumpInstructionsRun : Prop :=
  ∀ (s : State) (n : Nat) (p : Port), s.dev.Mirrors → n < 32 → s.dev.pumpPort n = some p →
    let on (g : Prog) : Prop := g.stop = false ∧ g.pc < g.nwords ∧ s.dev.badWord n g = false
    (∀ k waited, s.dev.prog n = none → (s.dev.pump n).held = [] → s.dev.rdBool (.pump n) 0x014 0 = true →
      s.dev.chanPick n = some k →
      ((s.dev.chan n k).resumed = none → (s.dev.pump n).ahead = none → Makes (.programStart n waited) s fun e =>
        let w := wellOf n k
        let a := 64 * s.dev.rd (.well w) 0x00 6 + 2 ^ 32 * s.dev.rd (.well w) 0x04 0 + 64 * s.dev.wellHead w
        e.prog n = some { ch := k, entry := s.dev.wellHead w, fetch := [⟨4, 0, a, 64, none, false⟩], phase := .load } ∧
        e.out = [.hostRead p a 64 (2048 * n)] ∧ e.mem = s.dev.mem) ∧
      (∀ g h, (s.dev.chan n k).resumed = some g → g.words ≠ [] → g.loops = [] →
        h = { g with stop := false, fetch := [], phase := .run } → on h →
        Makes (.programStart n waited) s fun e => e.prog n = some h ∧ (e.chan n k).resumed = none ∧ e.mem = s.dev.mem)) ∧
    (∀ g x, s.dev.atOp n 0x81 = some g → x = g.args → x.dstSpace = 0 → 1 ≤ x.len → x.dst + x.len ≤ 2 ^ 64 →
      s.dev.rd (.pump n) 0x024 0 = 0 → g.loops = [] → on { g with pc := g.pc + 2 } → Makes (.fill n) s fun e =>
        e.out = (pieces x).map (fun y => .hostWrite p (x.dst + y.1) (patternBytes x.pattern (x.dst + y.1) y.2)) ∧
        e.rd (.pump n) 0x050 0 = (s.dev.rd (.pump n) 0x050 0 + x.len) % 2 ^ 64 ∧ e.mem = s.dev.mem ∧
        ∃ l, e.prog n = some { g with pc := g.pc + 2, fetch := [], phase := .run, lastHost := some l }) ∧
    (∀ c op g x, (c, op) ∈ [(Instr.move n, 0x80), (.compare n, 0x82)] → s.dev.atOp n op = some g → x = g.args →
      x.srcSpace = 0 → x.dstSpace = 0 → 1 ≤ x.len → s.dev.rd (.pump n) 0x024 0 = 0 → Makes c s fun e =>
        e.prog n = some { g with fetch := s.dev.moveFetches x, phase := .data } ∧
        e.out = (s.dev.moveFetches x).zipIdx.map (fun y => .hostRead p y.1.addr y.1.len (2048 * n + y.2 % 2048)) ∧
        e.mem = s.dev.mem) ∧
    (∀ g w l, s.dev.atOp n 0x83 = some g → w = g.word g.pc → 1 ≤ bits w 32 16 →
      l = (⟨g.pc + 1, bits w 32 16, bits w 0 32, 0, signed32 (bits w 48 32), signed32 (bits w 80 32)⟩ : PumpLoop) →
      on { g with pc := g.pc + 1, loops := l :: g.loops, fetch := [], phase := .run } →
      Makes (.pumpLoop n) s fun e =>
        e.prog n = some { g with pc := g.pc + 1, loops := l :: g.loops, fetch := [], phase := .run } ∧
        e.out = [] ∧ e.mem = s.dev.mem) ∧
    (∀ g, s.dev.atOp n 0x84 = some g → Makes (.wait n) s fun e =>
      e.prog n = some { g with
        phase := .cond (tget 0 s.dev.rels ((s.dev.clapRange p).1 + bits (g.word g.pc) 0 16)) } ∧
      e.rd (.pump n) 0x104 2 = 1 ∧ e.mem = s.dev.mem) ∧
    (∀ g since beats, s.dev.prog n = some g → g.phase = .cond since →
      (s.dev.waitHolds n g since = true → g.loops = [] → on { g with pc := g.pc + 1, fetch := [], phase := .run } →
        Makes (.waitConditionMet (.engine n beats)) s fun e =>
          e.prog n = some { g with pc := g.pc + 1, fetch := [], phase := .run } ∧
          (1 ≤ beats → e.rd (.pump n) 0x060 0 = (s.dev.rd (.pump n) 0x060 0 + beats) % 2 ^ 64)) ∧
      (bits (g.word g.pc) 64 16 ≠ 0 → s.dev.waitHolds n g since = false → g.ch < 2048 →
        s.dev.cringFull (cringOf p (s.dev.rd (.well (wellOf n g.ch)) 0x08 12)) = false →
        Makes (.waitTimeout n) s fun e => e.prog n = (s.dev.pump n).held.head? ∧
          e.wellHead (wellOf n g.ch) = (s.dev.wellHead (wellOf n g.ch) + 1) % s.dev.wellSize (wellOf n g.ch) ∧
          e.rd (.pump n) 0x060 0 = (s.dev.rd (.pump n) 0x060 0 + 1024 * bits (g.word g.pc) 64 16) % 2 ^ 64)) ∧
    (∀ g w, s.dev.atOp n 0x85 = some g → g.confirmReads = [] → w = g.word g.pc → bits w 112 4 = 1 →
      bits w 0 16 < 4096 → g.loops = [] → on { g with pc := g.pc + 1, fetch := [], phase := .run } →
      Makes (.signal n) s fun e => e.sem (bits w 0 16) = min (s.dev.sem (bits w 0 16) + bits w 16 32) (2 ^ 32 - 1) ∧
        e.prog n = some { g with pc := g.pc + 1, fetch := [], phase := .run } ∧ e.mem = s.dev.mem)

/-- END, its writes confirmed where its entry asks for that, moves the well's head on and frees the engine for a stopped
channel that waits to post, if any; not quiet, it first writes a completion entry with status 0 at the ring's tail, and
waits while the ring is full. A fault halts the channel, keeps its cause, and posts in the same way; one that a retry
mends is only counted. Data a read waits for are kept until the last have come, and a completion nothing waits for is
dropped (R278 to R280, R282, R285, R331).
Host data come as commands, the model's choice (log 100). -/
def Obligations.PumpProgramsEnd : Prop :=
  ∀ (s : State) (n : Nat) (p : Port) (g : Prog) (ring : Page), s.dev.Mirrors → n < 32 → s.dev.pumpPort n = some p →
    s.dev.prog n = some g → g.ch < 2048 → ring = cringOf p (s.dev.rd (.well (wellOf n g.ch)) 0x08 12) →
    (g.phase = .run → (g.atEnd = true ∨ g.op = 0x86) → g.confirmReads ≠ [] → (∀ y ∈ g.confirmReads, y.space = 0) →
      Makes (.pumpEnd n) s fun e => e.prog n = some { g with fetch := g.confirmReads, phase := .data } ∧
        e.out = g.confirmReads.zipIdx.map (fun y => .hostRead p y.1.addr y.1.len (2048 * n + y.2 % 2048)) ∧
        e.mem = s.dev.mem) ∧
    (g.phase = .run → (g.atEnd = true ∨ g.op = 0x86) → g.confirmReads = [] →
      (g.atEnd = false → bit (g.word g.pc) 112 = true → Makes (.pumpEnd n) s fun e =>
        e.prog n = (s.dev.pump n).held.head? ∧ e.out = [] ∧
        e.wellHead (wellOf n g.ch) = (s.dev.wellHead (wellOf n g.ch) + 1) % s.dev.wellSize (wellOf n g.ch) ∧
        e.rd (.pump n) 0x040 0 = (s.dev.rd (.pump n) 0x040 0 + 1) % 2 ^ 64) ∧
      ((g.atEnd = true ∨ bit (g.word g.pc) 112 = false) → s.dev.cringFull ring = true → Makes (.pumpEnd n) s fun e =>
        e.prog n = some { g with fetch := [], post := some ⟨0, g.pc % 2 ^ 16, 0, false⟩, phase := .ring } ∧ e.out = [] ∧
        e.wellHead (wellOf n g.ch) = s.dev.wellHead (wellOf n g.ch)) ∧
      ((g.atEnd = true ∨ bit (g.word g.pc) 112 = false) → s.dev.cringFull ring = false →
        Makes (.pumpEnd n) s fun e => e.prog n = (s.dev.pump n).held.head? ∧
          .hostWrite p (64 * s.dev.rd ring 0x00 6 + 2 ^ 32 * s.dev.rd ring 0x04 0 + 32 * s.dev.rd ring 0x0C 0)
            (cqEntry (wellOf n g.ch) g ⟨0, g.pc % 2 ^ 16, 0, false⟩ (s.dev.rdBool ring 0x10 1)) ∈ e.out ∧
          e.wellHead (wellOf n g.ch) = (s.dev.wellHead (wellOf n g.ch) + 1) % s.dev.wellSize (wellOf n g.ch))) ∧
    (∀ cause dir space addr, cause ∈ [4, 5, 7] → (g.phase = .run ∨ g.phase = .data) →
      Makes (.pumpFault n cause dir space addr false) s fun e => e.prog n = some g ∧ e.mem = s.dev.mem ∧
        (e.chan n g.ch).halted = (s.dev.chan n g.ch).halted ∧
        e.rd (.pump n) 0x028 0 = min (s.dev.rd (.pump n) 0x028 0 + 1) (2 ^ 32 - 1)) ∧
    (∀ cause dir space addr again, cause ∈ [1, 2, 3, 6] → (g.phase = .run ∨ g.phase = .data) →
      s.dev.cringFull ring = true → Makes (.pumpFault n cause dir space addr again) s fun e =>
        e.prog n = some { g with fetch := [], post := some ⟨1, g.pc % 2 ^ 16, 0, false⟩, phase := .ring } ∧
        (e.chan n g.ch).cause = cause ∧ (e.chan n g.ch).word = g.pc ∧ e.mem = s.dev.mem) ∧
    (∀ cause dir space addr again, cause ∈ [1, 2, 3, 6] → (g.phase = .run ∨ g.phase = .data) → g.stop = false →
      s.dev.cringFull ring = false → Makes (.pumpFault n cause dir space addr again) s fun e =>
        e.prog n = (s.dev.pump n).held.head? ∧ (e.chan n g.ch).halted = some { g with fetch := [], phase := .run, post := none } ∧
        (e.chan n g.ch).cause = cause ∧ (e.chan n g.ch).word = g.pc ∧ e.mem = s.dev.mem ∧
        e.rd (.pump n) 0x058 0 = (s.dev.rd (.pump n) 0x058 0 + 1) % 2 ^ 64) ∧
    (∀ i st bs, (g.fetch[i]?).filter (·.data.isNone) = none → i ≠ 2047 →
      Makes (.hostCompletion n i st bs) s fun e => e.pumps = s.dev.pumps ∧ e.mem = s.dev.mem ∧ e.out = [] ∧
        (st ≠ 4 → e.rd (hpPage p) 0x040 0 = (s.dev.rd (hpPage p) 0x040 0 + bs.length) % 2 ^ 64)) ∧
    (∀ i (f : Fetch) bs, g.fetch[i]? = some f → f.space = 0 → f.data = none → f.retried = false → bs.length = f.len →
      (∃ y ∈ g.fetch.eraseIdx i, y.data = none) → Makes (.hostCompletion n i 0 bs) s fun e =>
        e.prog n = some { g with fetch := setAt g.fetch i { f with data := some bs } } ∧ e.mem = s.dev.mem)

/-! ### Registers, windows and probes (R12, R13, R82, R129, R163, R323 to R325, R432 to R446) -/

/-- A write its writer may make stores its value; one that holds a reserved code changes no register of the device but the
port's count of bytes; the sideband is denied a register that is not its own; a host that may not write leaves the
register as it was (R13, R323, R422).
The order of the bus's checks is the model's choice (log 120). -/
def Obligations.RegisterWritesLand : Prop :=
  ∀ (s : State) (pg : Page) (o v : Nat), s.dev.Mirrors → pageOf (pg.base + o) = some (pg, o) → v < 2 ^ 32 →
    (pg.base + o) % 4 = 0 → pg.base + o + 4 ≤ 2 ^ 26 →
    (∀ w, pg.hasHeader = true → o = 0x01C → s.dev.canWrite w pg o →
      Makes (.registerWrite w false (pg.base + o) 4 v) s fun e => e.rd pg 0x01C 0 = v ∧ e.mem = s.dev.mem) ∧
    (∀ p, s.dev.canWrite (.host p) pg o → wordReserved pg o v = true → codeHasOutcome pg o = false →
      Makes (.registerWrite (.host p) false (pg.base + o) 4 v) s fun e => e.resp = .ok ∧ e.mem = s.dev.mem ∧
        s.dev.KeepsRegs e [fieldKey ((hpPage p).base + 0x040) 0] ∧ ∀ q, e.take q = s.dev.take q) ∧
    (s.dev.powered = true → sidebandMay pg o = false →
      exec (.registerWrite .sideband false (pg.base + o) 4 v) s = .next { s with
        dev := { s.dev.quiet with resp := .denied } }) ∧
    (∀ p c detail, s.dev.hostUp p → s.dev.gate (.host p) (pg.base + o) pg o = .refused p c detail → (∀ i, pg ≠ .hp i) →
      Makes (.registerWrite (.host p) false (pg.base + o) 4 v) s fun e => e.mem = s.dev.mem ∧
        (∀ lo < 32, e.rd pg o lo = s.dev.rd pg o lo) ∧
        e.rd (hpPage p) 0x060 0 = (s.dev.rd (hpPage p) 0x060 0 + 1) % 2 ^ 64)

/-- A read of a counter's low word answers it and latches the high word (R82); a read of a read-to-clear field clears it
(R12); `cnt_clear` clears a block's counters; BLK_CTRL clears its error or retry state, and a write of ERR_STATUS the
bits it names (R432, R433); ERR_INJECT arms a block that has a check to exercise (R435). -/
def Obligations.CountersAndErrorsClear : Prop :=
  ∀ (s : State) (p : Port), s.dev.Mirrors → s.dev.hostUp p →
    (∀ pg o f, pageOf (pg.base + o) = some (pg, o) → (pg.base + o) % 4 = 0 → pg.base + o + 4 ≤ 2 ^ 26 →
      s.dev.foreign p pg = false → s.dev.gone pg o = false →
      (fieldsAt pg o = [f] → f.width = 64 → f.lo = 0 → f.acc = .ro →
        regLegal (fieldKey (pg.base + (o + 4)) 0) (s.dev.rd pg o 0 / 2 ^ 32) = true →
        Makes (.counterLowRead (.host p) false (pg.base + o) 4) s fun e =>
          e.resp = .data (s.dev.rd pg o 0 % 2 ^ 32) ∧ e.rd pg (o + 4) 0 = s.dev.rd pg o 0 / 2 ^ 32 ∧ e.mem = s.dev.mem) ∧
      (f ∈ fieldsAt pg o → f.acc = .rc → regLegal (fieldKey (pg.base + o) f.lo) 0 = true →
        Makes (.readClear (.host p) (pg.base + o) 4) s fun e =>
          e.resp = .data (s.dev.regValue pg o) ∧ e.rd pg o f.lo = 0 ∧ e.mem = s.dev.mem)) ∧
    (∀ ty inst pg, pageById ty inst = some pg → pg.hasHeader = true →
      (∀ o v, (pg.isEngine = true ∨ ∃ c, pg = .vc c) → s.dev.cntClearAt pg = some (o, v) →
        s.dev.canWrite (.host p) pg o → wordReserved pg o (v % 2 ^ 32) = false →
        Makes (.cntClear (.host p) ty inst) s fun e => ∀ i < 24, e.rd pg (0x040 + 8 * i) 0 = 0) ∧
      (s.dev.canWrite (.host p) pg 0x010 →
        Makes (.errClear (.host p) ty inst) s (fun e => (∀ i < 5, e.rd pg 0x018 i = 0) ∧ e.errFirst pg = 0) ∧
        Makes (.retryClear (.host p) ty inst) s fun e => e.rd pg 0x028 0 = 0 ∧ e.rd pg 0x02C 0 = 0 ∧
          e.errFirst pg = s.dev.errFirst pg) ∧
      (∀ v, v < 32 → s.dev.canWrite (.host p) pg 0x018 → Makes (.errStatusWrite (.host p) ty inst v) s fun e =>
        (∀ i < 5, e.rd pg 0x018 i = if bit v i then 0 else s.dev.rd pg 0x018 i) ∧
        ((∀ i < 5, s.dev.rd pg 0x018 i = 1 → bit v i = true) → e.errFirst pg = 0)) ∧
      (∀ mode, mode < 3 → s.dev.canWrite (.host p) pg 0x024 → Makes (.errInject (.host p) ty inst mode) s fun e =>
        (pg.canInject = true → e.rd pg 0x024 0 = mode ∧ e.rd pg 0x024 2 = 0) ∧
        (pg.canInject = false → e.rd pg 0x024 0 = s.dev.rd pg 0x024 0)))

/-- The window reads and writes local DRAM of the port's partition (R324, R325); the probe keeps the result of its
operands and shows it when it is done, or sets `bad` (R129); a debug read answers a cell of an accumulator, or all
ones where debug access is off (R163).
That the inputs of an evaluation are those at `go` is the model's choice (log 125). -/
def Obligations.WindowsAndProbes : Prop :=
  ∀ (s : State) (p : Port), s.dev.Mirrors → s.dev.hostUp p →
    (∀ off n a, a = s.dev.winBase p + off → 1 ≤ n → off + n ≤ s.dev.winSize p → a + n ≤ 2 ^ 36 →
      (∀ x, a ≤ x → x < a + n → s.dev.vaultField (x / 2 ^ 27) 4 0 ≠ 1 ∧
        s.dev.vaultField (x / 2 ^ 27) 0xC 0 = p.idx ∧ s.dev.guarded (x / 2 ^ 27) = false ∧
        s.dev.rd (vaultPage (x / 2 ^ 27)) 0x024 0 = 0) →
      Makes (.bar2Read p off n) s (fun e => e.resp = .data (leNat (s.dev.bytes a n)) ∧ e.mem = s.dev.mem) ∧
      ∀ bs, bs.length = n → Makes (.bar2Write p off bs false) s fun e => e.resp = .ok ∧ e.bytes a n = bs ∧
        s.dev.KeepsMem e a n) ∧
    (∀ ctrl r, ctrl < 2 ^ 32 → s.dev.canWrite (.host p) (.gen p.idx) 0x11C → s.dev.rdBool (.gen p.idx) 0x12C 0 = false →
      r = (if wordReserved (.gen p.idx) 0x11C ctrl then none else probeEval (s.dev.rd (.gen p.idx) 0x100 0 + s.dev.rd (.gen p.idx) 0x104 0 * 2 ^ 32)
        (s.dev.rd (.gen p.idx) 0x10C 0) (s.dev.rd (.gen p.idx) 0x108 0)
        (s.dev.rd (.gen p.idx) 0x110 0 + s.dev.rd (.gen p.idx) 0x114 0 * 2 ^ 32) (s.dev.rd (.gen p.idx) 0x10C 16)
        (s.dev.rd (.gen p.idx) 0x118 0) (bits ctrl 1 3) (bits ctrl 4 1) (bits ctrl 5 3)) →
      Makes (.genGo (.host p) p ctrl) s fun e =>
        (r = none → e.rd (.gen p.idx) 0x12C 1 = 1 ∧ e.rdBool (.gen p.idx) 0x12C 0 = false) ∧
        ∀ x y, r = some (x, y) → e.rdBool (.gen p.idx) 0x12C 0 = true ∧ tget (0, 0) e.ctl.gen p.idx = (x.toNat, y)) ∧
    (∀ x y, findKey p.idx s.dev.ctl.gen = some (x, y) → x < 2 ^ 64 → Makes (.genEvalDone p) s fun e =>
      e.rd64 (.gen p.idx) 0x120 = x ∧ e.rd (.gen p.idx) 0x128 0 = y % 2 ^ 32 ∧
      e.rdBool (.gen p.idx) 0x12C 0 = false) ∧
    (∀ q, q < 4 → s.dev.foreign p (.me q) = false → s.dev.gone (.me q) 0x128 = false →
      (s.dev.rdBool (.me q) 0x100 2 = false → Makes (.debugRead (.host p) q) s fun e =>
        e.resp = .data 0xFFFFFFFF ∧ e.accs = s.dev.accs ∧ e.mem = s.dev.mem) ∧
      (∀ h j, s.dev.rdBool (.me q) 0x100 2 = true →
        h = (if s.dev.halfMode q then s.dev.rd (.me q) 0x124 16 / 256 else 0) →
        j = (if s.dev.halfMode q then s.dev.rd (.me q) 0x124 16 % 256 else s.dev.rd (.me q) 0x124 16) →
        (s.dev.acc q h (s.dev.rd (.me q) 0x120 0)).spilled = false →
        (s.dev.acc q h (s.dev.rd (.me q) 0x120 0)).acc < 2 → Makes (.debugRead (.host p) q) s fun e =>
          e.resp = .data (((s.dev.acc q h (s.dev.rd (.me q) 0x120 0)).cell (s.dev.rd (.me q) 0x124 0) j).2 % 2 ^ 32) ∧
          e.accs = s.dev.accs ∧ e.mem = s.dev.mem))

/-! ### Reels, repair, plans and identity (R338 to R364, R443 to R448) -/

/-- A reel command is busy until REEL_COMMAND_DONE shows its result. VERIFY and RESTORE report their checks; KEYGEN and
KEYLOAD install a key under REEL_KEY_ID, KEYLOAD from the key registers, which it clears; KEYCLEAR erases it (R345 to
R347, R351).
That a command works when it is written and shows its result at its end is the model's choice (log 130). -/
def Obligations.ReelCommandsRun : Prop :=
  ∀ (s : State) (p : Port), s.dev.Mirrors → s.dev.canWrite (.host p) (.reel p.idx) 0x100 →
    s.dev.rdBool (.reel p.idx) 0x104 0 = false → 2 ≤ s.dev.rd (mboxPage p) 0x158 0 →
    Makes (.reelVerify p) s (fun e => e.rdBool (.reel p.idx) 0x104 0 = true ∧ e.mem = s.dev.mem ∧
      (e.reel p).cmd = 1 ∧ (e.reel p).result = (s.dev.reelVerify p (s.dev.reelAddr p) true).1 ∧
      (e.reel p).record = (s.dev.reelVerify p (s.dev.reelAddr p) true).2.1) ∧
    (((s.dev.reached p).reelCheck p (s.dev.reelAddr p)).1 ≠ 0 → Makes (.restore p none) s fun e =>
      e.rdBool (.reel p.idx) 0x104 0 = true ∧ e.mem = s.dev.mem ∧ (e.reel p).cmd = 2 ∧
      (e.reel p).result = ((s.dev.reached p).reelCheck p (s.dev.reelAddr p)).1) ∧
    (((s.dev.reached p).reelCheck p (s.dev.reelAddr p)).1 = 0 → Makes (.restore p none) s fun e =>
      e.rdBool (.reel p.idx) 0x104 0 = true ∧ (e.reel p).cmd = 2 ∧ (e.reel p).result = 0 ∧
      e.mem = ((s.dev.reached p).restoreAll p ((s.dev.reached p).reelCheck p (s.dev.reelAddr p)).2.2
        ((s.dev.sheetAt (s.dev.reelAddr p)).num 0x18 6)).mem) ∧
    (s.dev.rdBool .entCell 0x104 8 = true → s.dev.keyReady p = true →
      Makes (.keygen p) s (fun e => e.rdBool (.reel p.idx) 0x104 0 = true ∧ (e.reel p).result = 0 ∧
        e.rd (.reel p.idx) 0x104 2 = 1 ∧ e.rd (.reel p.idx) 0x104 3 = 1 ∧
        ∃ key, (e.reel p).key = some key ∧ key.id = s.dev.rd (.reel p.idx) 0x110 0 ∧ key.used = 0) ∧
      Makes (.keyload p) s fun e => e.rdBool (.reel p.idx) 0x104 0 = true ∧ (e.reel p).result = 0 ∧
        e.rd (.reel p.idx) 0x104 2 = 1 ∧ e.rd (.reel p.idx) 0x104 3 = 0 ∧
        (∀ i < 8, e.rd (.reel p.idx) (0x120 + 4 * i) 0 = 0) ∧ ∃ key, (e.reel p).key = some key ∧ key.used = 0 ∧
          key.id = s.dev.rd (.reel p.idx) 0x110 0 ∧ key.key = (List.range 8).flatMap fun i =>
            natBytes (leBytes 4 (s.dev.rd (.reel p.idx) (0x120 + 4 * i) 0))) ∧
    (s.dev.rdBool .entCell 0x104 8 = false → Makes (.keygen p) s fun e =>
      e.rdBool (.reel p.idx) 0x104 0 = true ∧ (e.reel p).result = 0x59 ∧ (e.reel p).key = (s.dev.reel p).key) ∧
    Makes (.keyclear p) s (fun e => e.rdBool (.reel p.idx) 0x104 0 = true ∧ (e.reel p).result = 0 ∧
      (e.reel p).key = none ∧ e.rd (.reel p.idx) 0x104 2 = 0) ∧
    ∀ t : State, t.dev.rdBool (.reel p.idx) 0x104 0 = true → (t.dev.reel p).waits = false →
      (t.dev.reel p).result < 256 → (t.dev.reel p).record < 2 ^ 16 → Makes (.reelCommandDone p) t fun e =>
        e.rdBool (.reel p.idx) 0x104 0 = false ∧ e.rd (.reel p.idx) 0x104 8 = (t.dev.reel p).result ∧
        e.rd (.reel p.idx) 0x104 16 = (t.dev.reel p).record ∧ e.mem = t.dev.mem ∧
        ((t.dev.reel p).result = 0 → (t.dev.reel p).cmd = 2 →
          e.rd (.reel p.idx) 0x048 0 = (t.dev.rd (.reel p.idx) 0x048 0 + 1) % 2 ^ 64) ∧
        ((t.dev.reel p).result ≠ 0 →
          e.rd (.reel p.idx) 0x050 0 = (t.dev.rd (.reel p.idx) 0x050 0 + 1) % 2 ^ 64)

/-- BIST and RELOAD of a unit of the port that no take holds are busy until REPAIR_COMMAND_DONE; a passed BIST leaves the
site's SRAM zero. The next failed site of an idle partition tests its best spare, which on passing takes over its
logical tile (R357, R358, R363, R364). -/
def Obligations.RepairsRun : Prop :=
  ∀ (s : State) (p : Port), s.dev.Mirrors →
    (∀ c cmd ty inst pg, (c, cmd) ∈ [(Instr.bist (.host p) p, 1), (.reload (.host p) p, 2)] →
      s.dev.canWrite (.host p) (.rep p.idx) 0x100 → s.dev.rdBool (.rep p.idx) 0x104 0 = false →
      inst = s.dev.rd (.rep p.idx) 0x108 16 → ty = (if cmd = 1 then 0x0030 else s.dev.rd (.rep p.idx) 0x108 0) →
      pageById ty inst = some pg →
      (s.dev.owns p pg = true → s.dev.rd pg 0x014 0 ≠ 0 →
        (if cmd = 1 then s.dev.takeLists pg else s.dev.inTake pg) = false → Makes c s fun e =>
          e.rdBool (.rep p.idx) 0x104 0 = true ∧ tget (0, 0, 0) e.ctl.repJob p.idx = (cmd, ty, inst) ∧
          e.mem = s.dev.mem) ∧
      (s.dev.owns p pg = false → Makes c s fun e => e.rd (.rep p.idx) 0x104 8 = 0x62 ∧
        e.rdBool (.rep p.idx) 0x104 0 = false ∧ e.mem = s.dev.mem)) ∧
    (∀ ty inst pg, findKey p.idx s.dev.ctl.repJob = some (2, ty, inst) → pageById ty inst = some pg →
      pg ≠ .rep p.idx → Makes (.repairCommandDone p true) s fun e =>
        e.rdBool (.rep p.idx) 0x104 0 = false ∧ e.rd (.rep p.idx) 0x104 8 = 0) ∧
    (∀ σ, findKey p.idx s.dev.ctl.repJob = some (1, 0x0030, σ) → σ < 144 →
      Makes (.repairCommandDone p true) s fun e => e.rdBool (.rep p.idx) 0x104 0 = false ∧
        e.rd (.rep p.idx) 0x104 8 = 0 ∧ ∀ x, tileSram σ ≤ x → x < tileSram σ + 0x400000 → e.mem.get x = 0) ∧
    (∀ x t rest, s.dev.ctl.subst = none → s.dev.ctl.substQ = x :: rest → s.dev.owner (.tile x) = p.idx →
      s.dev.takeState p ≠ 4 → s.dev.takeState p ≠ 5 → s.dev.bestSpare x = some t → Makes .substitution s fun e =>
        e.ctl.subst = some (x, t) ∧ e.ctl.substQ = rest ∧ e.rd (.rep p.idx) 0x104 2 = 1 ∧ e.mem = s.dev.mem) ∧
    (∀ x t, s.dev.ctl.subst = some (x, t) → x < 144 → t < 144 → x ≠ t → s.dev.owner (.tile x) = p.idx →
      Makes (.substitutionDone true) s fun e => e.ctl.subst = none ∧
        e.rd (.tile t) 0x108 0 = s.dev.rd (.tile x) 0x108 0 ∧ e.rd (.tile x) 0x108 0 = 0xFF ∧
        tget 0 e.record.spareMap t = tget x s.dev.record.spareMap x)

/-- APPLY keeps a staged plan that passes its checks until PLAN_APPLIED puts it in force, and reports the first check that
fails; COPY stages the plan in force. HOST_IFACE_REQ fixes the highest common level of an idle partition; DEV_ID takes
its value while no take is loaded (R329, R443, R446, R448). -/
def Obligations.PlansAndIdentity : Prop :=
  ∀ (s : State) (w : Writer), s.dev.Mirrors →
    (s.dev.canWrite w .part 0x1C0 → s.dev.ctl.plan = none →
      Makes (.apply w) s (fun e => e.mem = s.dev.mem ∧
        (s.dev.planCheck (s.dev.planWords 0x100) = 0 → e.ctl.plan = some (s.dev.planWords 0x100) ∧
          e.rd .part 0x1C4 0 = 1) ∧
        (s.dev.planCheck (s.dev.planWords 0x100) ≠ 0 → e.ctl.plan = none ∧
          e.rd .part 0x1C4 8 = s.dev.planCheck (s.dev.planWords 0x100))) ∧
      Makes (.copy w) s fun e => e.mem = s.dev.mem ∧
        ∀ i < 9, e.word .part (0x100 + 4 * i) = s.dev.word .part (0x180 + 4 * i)) ∧
    (s.dev.ctl.plan = some (s.dev.planWords 0x100) → Makes .planApplied s fun e => e.ctl.plan = none ∧
      e.rd .part 0x1C4 0 = 0 ∧ e.rd .part 0x1C4 8 = 0 ∧
      ∀ i < 9, e.word .part (0x180 + 4 * i) = s.dev.word .part (0x100 + 4 * i)) ∧
    (∀ p low high l, s.dev.canWrite w (mboxPage p) 0x154 → 1 ≤ low → low ≤ high → high ≤ 3 → s.dev.takeState p = 0 →
      ifaceLevel low high (s.dev.rd (mboxPage p) 0x158 8) (s.dev.rd (mboxPage p) 0x158 12) = some l →
      Makes (.hostIfaceReq w p low high) s fun e => e.rd (mboxPage p) 0x158 0 = l ∧ e.rd (mboxPage p) 0x158 4 = 0 ∧
        e.rd (mboxPage p) 0x154 0 = low ∧ e.rd (mboxPage p) 0x154 4 = high) ∧
    (∀ v, s.dev.canWrite w .ident 0x10C → v < 2 ^ 32 → wordReserved .ident 0x10C v = false →
      ((s.dev.takeState .a = 0 ∧ s.dev.takeState .b = 0) → Makes (.devIdWrite w v) s fun e =>
        e.rd .ident 0x10C 0 = bits v 0 10 ∧ e.rd .ident 0x10C 16 = bits v 16 1) ∧
      ((s.dev.takeState .a ≠ 0 ∨ s.dev.takeState .b ≠ 0) → Makes (.devIdWrite w v) s fun e =>
        e.rd .ident 0x10C 0 = s.dev.rd .ident 0x10C 0 ∧ e.rd .ident 0x10C 16 = s.dev.rd .ident 0x10C 16))

/-! ### The sluice and the entropy source (R366 to R395) -/

/-- Requests, cap, share and setpoint take legal values of their writer, and the budget follows. A block over its ceiling
takes the lowest level that brings it there; 31 levels not enough, the whole core rises; droop, die temperature and
the thermal trip show and act (R366, R370, R372, R374, R376, R378 to R380).
Rounding and ties are the model's choices (log 150), estimates are operands (log 151). -/
def Obligations.SluiceFollows : Prop :=
  ∀ (s : State), s.dev.Mirrors →
    (∀ w reg v, (w, reg) ∈ [(Writer.host .a, 0), (.host .b, 1), (.sideband, 2)] →
      s.dev.canWrite w .sluice (0x108 + 4 * reg) → v < 2 ^ 32 →
      (wordReserved .sluice (0x108 + 4 * reg) v = false → Makes (.budgetRequest w reg v) s fun e =>
        e.rd .sluice (0x108 + 4 * reg) 0 = bits v 0 16 ∧ e.rd .sluice 0x114 0 = e.budget) ∧
      (wordReserved .sluice (0x108 + 4 * reg) v = true → Makes (.budgetRequest w reg v) s fun e =>
        e.rd .sluice (0x108 + 4 * reg) 0 = s.dev.rd .sluice (0x108 + 4 * reg) 0)) ∧
    (∀ w, w = .host .a ∨ w = .sideband →
      (∀ v, s.dev.canWrite w .sluice 0x118 → v ≤ 256 → Makes (.sluShareWrite w v) s fun e =>
        e.rd .sluice 0x118 0 = v ∧ e.rd .sluice 0x11C 0 = (e.budget - 720) * v / 256) ∧
      (∀ mv, s.dev.canWrite w .sluice 0x128 → vcoreOk mv = true → Makes (.vcoreSet w mv) s fun e =>
        e.rd .sluice 0x128 0 = mv)) ∧
    (∀ ty inst pg c est total, pageById ty inst = some pg → pg.throttled = true → s.dev.ceiling pg = some c →
      est < 2 ^ 16 →
      (est ≤ c → Makes (.throttleDecision ty inst est total) s fun e => e.level pg = s.dev.level pg) ∧
      (c < est → s.dev.level pg < 31 → s.dev.sluice.core ≤ 31 → Makes (.throttleDecision ty inst est total) s fun e =>
        e.level pg = levelFor est (s.dev.level pg) c ∧ e.rd .sluice 0x124 0 = total % 2 ^ 16) ∧
      (s.dev.power pg * 10 < c * 9 → 2 ≤ s.dev.ownLevel pg → Makes (.throttleStepDown ty inst) s fun e =>
        e.ownLevel pg = s.dev.ownLevel pg - 1) ∧
      (c < s.dev.power pg → s.dev.level pg = 31 → s.dev.rdBool .sluice 0x104 3 = false →
        Makes (.coreWideThrottle ty inst total) s fun e => e.rdBool .sluice 0x104 3 = true ∧
          (s.dev.rd .sluice 0x114 16 < total → e.sluice.core = min 31 (s.dev.sluice.core + 1)) ∧
          (total ≤ s.dev.rd .sluice 0x114 16 → e.sluice.core = s.dev.sluice.core))) ∧
    (∀ total, s.dev.rdBool .sluice 0x104 3 = true → total * 10 < s.dev.rd .sluice 0x114 16 * 9 →
      Makes (.coreWideRelease total) s fun e => e.rdBool .sluice 0x104 3 = false ∧ e.sluice.core = 0 ∧
        e.sluice.level = s.dev.sluice.level) ∧
    (∀ mv, mv + 50 < s.dev.rd .sluice 0x128 0 → Makes (.droop mv) s fun e => e.rd .sluice 0x104 2 = 1 ∧
      (s.dev.rdBool .sluice 0x104 2 = false → e.rd .sluice 0x048 0 = (s.dev.rd .sluice 0x048 0 + 1) % 2 ^ 64)) ∧
    (∀ mv, s.dev.rdBool .sluice 0x104 2 = true → s.dev.rd .sluice 0x128 0 ≤ mv + 50 →
      Makes (.droopRelease mv) s fun e => e.rd .sluice 0x104 2 = 0) ∧
    (∀ temps, temps.length = 16 → (∀ t ∈ temps, t ≤ 120) → Makes (.thermalFactor temps) s fun e =>
      e.rd .sluice 0x120 0 = temps.foldl max 0 ∧ e.rd .sluice 0x120 16 = 256 * thermal (temps.foldl max 0) / 20 ∧
      e.rdBool .sluice 0x104 1 = decide (100 < temps.foldl max 0)) ∧
    (∀ column temp, 115 ≤ temp → s.dev.powered = true → Makes (.thermalTrip column temp) s fun e => e.pwr.trip = true ∧ e.pwr.good = false ∧
      .pin "THERMTRIP_N" false ∈ e.out ∧ e.mem = Mem.empty ∧ e.rd .ident 0x100 0 = 0)

/-- A cell under test collects its samples and passes or counts a failure; the known-answer tests fail lastingly on a
second failure; a ring enabled starts empty, its tail moves, and a request to a ready instance is written back
complete; TRNG_RAW is read once (R383 to R385, R388, R390, R392, R394).
How samples are handed out is the model's reading (log 160). -/
def Obligations.EntropyServes : Prop :=
  ∀ (s : State) (p : Port) (i : Nat), s.dev.Mirrors → s.dev.hostUp p → i < 32 →
    (∀ c b, c < 8 → bit (s.dev.rd .entCell 0x104 0) c = false →
      (s.dev.rdBool .entCell 0x104 9 = false → (tget [] s.dev.ent.tests c).length < 1000 →
        Makes (.rawSample c b) s fun e => tget [] e.ent.tests c = tget [] s.dev.ent.tests c ++ [b]) ∧
      (1000 ≤ (tget [] s.dev.ent.tests c).length →
        (startupFails (tget [] s.dev.ent.tests c) = false → Makes (.startupTestDone c) s fun e =>
          bit (e.rd .entCell 0x104 0) c = true ∧ e.rd .entCell 0x104 8 = 1) ∧
        (startupFails (tget [] s.dev.ent.tests c) = true → Makes (.startupTestDone c) s fun e =>
          bit (e.rd .entCell 0x104 0) c = false ∧
          e.rd .entCell (0x180 + 4 * c) 0 = min (s.dev.rd .entCell (0x180 + 4 * c) 0 + 1) (2 ^ 32 - 1)))) ∧
    (s.dev.rd .entCell 0x024 0 = 0 →
      Makes (.kat none false) s (fun e => e.rd .entCell 0x104 10 = 0 ∧
        e.rd .entCell 0x104 11 = s.dev.rd .entCell 0x104 11 ∧ e.ent = s.dev.ent) ∧
      ∀ n, Makes (.kat (some n) true) s fun e => e.rd .entCell 0x104 11 = 1 ∧ ∀ k < 8, e.instState k = 3) ∧
    (∀ v, v < 2 ^ 32 → s.dev.canWrite (.host p) (.entPort p.idx) (0x208 + 32 * i) →
      wordReserved (.entPort p.idx) (0x208 + 32 * i) v = false → s.dev.ringOn (32 * p.idx + i) = false →
      bit v 6 = true → s.dev.rd (mboxPage p) 0x158 0 ≠ 1 → Makes (.entRingCfgWrite (.host p) p i v) s fun e =>
        e.ringOn (32 * p.idx + i) = true ∧ e.ringCfg (32 * p.idx + i) 0 = bits v 0 4 ∧
        e.rd (.entPort p.idx) (0x20C + 32 * i) 0 = 0 ∧ e.rd (.entPort p.idx) (0x20C + 32 * i) 16 = 0) ∧
    (∀ tail, s.dev.canWrite (.host p) (.entPort p.idx) (0x20C + 32 * i) →
      tail < 2 ^ s.dev.rd (.entPort p.idx) (0x208 + 32 * i) 0 → Makes (.entRingTail (.host p) p i tail) s fun e =>
        e.rd (.entPort p.idx) (0x20C + 32 * i) 16 = tail) ∧
    (∀ entry head, head = s.dev.rd (.entPort p.idx) (0x20C + 32 * i) 0 → entry < 2 ^ 256 →
      s.dev.ringOn (32 * p.idx + i) = true → s.dev.ringCfg (32 * p.idx + i) 4 = 1 →
      head ≠ s.dev.rd (.entPort p.idx) (0x20C + 32 * i) 16 → findKey (32 * p.idx + i) s.dev.ent.reqs = none →
      entBad false entry = false → bits entry 64 24 ≤ 65536 → s.dev.rdBool .entCell 0x104 11 = false →
      s.dev.instState (64 + (32 * p.idx + i)) = 1 → (tget {} s.dev.ent.drbg (32 * p.idx + i)).key.length = 32 →
      Makes (.entRequestServe p i entry false) s fun e =>
        .hostWrite p (64 * s.dev.rd (.entPort p.idx) (0x200 + 32 * i) 6 +
          2 ^ 32 * s.dev.rd (.entPort p.idx) (0x204 + 32 * i) 0 + 32 * head) (leBytes 32 (putBits entry 192 8 1)) ∈ e.out ∧
        e.rd (.entPort p.idx) (0x20C + 32 * i) 0 = (head + 1) % 2 ^ s.dev.rd (.entPort p.idx) (0x208 + 32 * i) 0) ∧
    (s.dev.gone (.entPort p.idx) 0x104 = false → Makes (.trngRawRead (.host p) p) s fun e =>
      e.resp = .data (s.dev.rd (.entPort p.idx) 0x104 0 + s.dev.rd (.entPort p.idx) 0x104 16 * 2 ^ 16 +
        s.dev.rd (.entPort p.idx) 0x104 31 * 2 ^ 31) ∧ e.rd (.entPort p.idx) 0x104 31 = 0)

/-! ### Firmware (R407 to R411, R415) -/

/-- WRITE and VERIFY of FW_CTRL, and of PLDM, are busy until FW_COMMAND_DONE; the boot ROM, held in stage 3 with no image
that verifies, takes an update into slot A (R398). ACTIVATE of a valid slot that suits both
ports waits for ACTIVATION_START, which runs it and raises the record's version; CANCEL withdraws it; REVERT returns
to the slot before. A command meanwhile reports BUSY, a flash error 0x75.
That PLDM carries the image itself, and that the boot ROM verifies it at once, is the model's choice (log 171). -/
def Obligations.FirmwareRuns : Prop :=
  ∀ (s : State) (w : Writer) (next : Nat), s.dev.Mirrors →
    next = (if s.dev.bootRom then 0 else 1 - s.dev.fwRunning) →
    (s.dev.canWrite w .fw 0x100 → s.dev.rdBool .fw 0x104 0 = false →
      (s.dev.rdBool .fw 0x104 1 = false → Makes (.fwWrite w) s fun e => e.mem = s.dev.mem ∧
        (s.dev.rd .fw 0x110 0 ≤ 2 ^ 24 → e.rdBool .fw 0x104 0 = true ∧ e.ctl.fwJob = 1) ∧
        (2 ^ 24 < s.dev.rd .fw 0x110 0 → e.rd .fw 0x104 8 = 0x74 ∧ e.ctl = s.dev.ctl)) ∧
      Makes (.fwVerify w) s (fun e => e.rdBool .fw 0x104 0 = true ∧ e.ctl.fwJob = 2 ∧ e.mem = s.dev.mem) ∧
      (s.dev.rdBool .fw 0x104 1 = false → (s.dev.fwSlot next).valid = true →
        (∀ p, (s.dev.fwSlot next).low ≤ s.dev.rd (mboxPage p) 0x158 0 ∧
          s.dev.rd (mboxPage p) 0x158 0 ≤ (s.dev.fwSlot next).high ∧
          (s.dev.takeState p = 3 → bit (s.dev.fwSlot next).majors (s.dev.take p).cs.major = true)) →
        ((s.dev.fwSlot s.dev.fwRunning).svn ≤ (s.dev.fwSlot next).svn → Makes (.activate w) s fun e =>
          e.rd .fw 0x104 1 = 1 ∧ e.rd .fw 0x104 8 = 0 ∧ e.rd .cc 0x104 4 = 1 ∧ e.ctl.fwNext = some next ∧
          e.rd .fw 0x104 2 = s.dev.rd .fw 0x104 2) ∧
        ((s.dev.fwSlot next).svn < (s.dev.fwSlot s.dev.fwRunning).svn → Makes (.activate w) s fun e =>
          e.rd .fw 0x104 8 = 0x71 ∧ e.ctl = s.dev.ctl)) ∧
      (s.dev.rdBool .fw 0x104 1 = true → s.dev.ctl.fwPrev = none → s.dev.ctl.mbox = [] → Makes (.cancel w) s fun e =>
        e.rd .fw 0x104 1 = 0 ∧ e.rd .fw 0x104 8 = 0x77 ∧ e.ctl.fwNext = none)) ∧
    (s.dev.canWrite w .fw 0x100 → s.dev.rdBool .fw 0x104 0 = true →
      ∀ c ∈ [Instr.fwWrite w, .fwVerify w, .activate w, .cancel w], Makes c s fun e =>
        e.rd .fw 0x104 8 = 0x73 ∧ e.ctl = s.dev.ctl) ∧
    (s.dev.powered = true → s.dev.rdBool .fw 0x104 0 = false →
      Makes (.pldmFirmwareUpdate .verify) s (fun e => e.resp = .ok ∧ e.ctl.fwJob = 2 ∧ e.rdBool .fw 0x104 0 = true) ∧
      ∀ image, s.dev.rdBool .fw 0x104 1 = false → image.length ≤ 2 ^ 24 →
        Makes (.pldmFirmwareUpdate (.write image)) s fun e => e.resp = .ok ∧ e.ctl.fwJob = 1 ∧
          e.ctl.fwImage = some image ∧ e.rdBool .fw 0x104 0 = true) ∧
    (s.dev.ctl.fwJob = 1 ∨ s.dev.ctl.fwJob = 2 → Makes (.fwCommandDone true) s fun e => e.rd .fw 0x104 0 = 0 ∧
      e.rd .fw 0x104 8 = 0x75 ∧ e.fwSlot next = s.dev.fwSlot next) ∧
    (∀ image, s.dev.ctl.fwJob = 1 →
      (s.dev.ctl.fwImage = some image ∨ s.dev.ctl.fwImage = none ∧
        image = s.dev.bytes (64 * s.dev.rd .fw 0x108 6 + 2 ^ 32 * s.dev.rd .fw 0x10C 0) (s.dev.rd .fw 0x110 0) ∧
        s.dev.dramOwned .a (64 * s.dev.rd .fw 0x108 6 + 2 ^ 32 * s.dev.rd .fw 0x10C 0) (s.dev.rd .fw 0x110 0) = true) →
      Makes (.fwCommandDone false) s fun e => e.rd .fw 0x104 0 = 0 ∧ e.rd .fw 0x104 8 = 0 ∧
        (e.fwSlot next).image = image ∧ e.ctl.fwJob = 0 ∧
        (s.dev.bootRom = false ∨ s.dev.ctl.fwImage = none ∨ fwCheck image s.dev.record.svn ≠ 0 →
          (e.fwSlot next).valid = false) ∧
        (s.dev.bootRom = true → s.dev.ctl.fwImage = some image → fwCheck image s.dev.record.svn = 0 →
          e.fwSlot next = fwSlotOf image)) ∧
    (∀ r, s.dev.ctl.fwJob = 2 → r = fwCheck (s.dev.fwSlot next).image s.dev.record.svn →
      Makes (.fwCommandDone false) s fun e => e.rd .fw 0x104 0 = 0 ∧ e.rd .fw 0x104 8 = r ∧
        (r = 0 → e.fwSlot next = fwSlotOf (s.dev.fwSlot next).image) ∧ (r ≠ 0 → (e.fwSlot next).valid = false)) ∧
    (∀ i, s.dev.ctl.fwNext = some i → i < 2 → s.dev.takeBusy = false → s.dev.ctl.fwPrev = none →
      (s.dev.ctl.mbox = [] → Makes (.activationStart true) s fun e => e.rd .fw 0x104 2 = i ∧ e.rd .fw 0x104 1 = 0 ∧
        e.record.boot = i ∧ e.record.svn = max s.dev.record.svn (s.dev.fwSlot i).svn ∧ e.ctl.fwNext = none) ∧
      Makes (.activationStart false) s fun e => e.rd .fw 0x104 2 = i ∧ e.ctl.fwPrev = some s.dev.fwRunning ∧
        e.record = s.dev.record) ∧
    (∀ i prev, s.dev.ctl.fwNext = some i → s.dev.ctl.fwPrev = some prev → i < 2 → prev < 2 → s.dev.ctl.mbox = [] →
      Makes .revert s fun e => e.rd .fw 0x104 2 = prev ∧ e.rd .fw 0x104 1 = 0 ∧ e.rd .fw 0x104 8 = 0x76 ∧
        (e.fwSlot i).valid = false ∧ e.ctl.fwNext = none ∧ e.ctl.fwPrev = none ∧ e.record = s.dev.record)

/-! ### Power and resets (R331, R332, R355, R380, R396 to R404, R418) -/

/-- Power in range brings the device to stage 12, ready; a module record whose factory section fails leaves it in stage 4,
no bootable firmware in stage 3. Power down and an input fault lose memory; a whole-device reset loses it too and
comes up again. A port's reset ends its partition's take, its key and its vectors, and a lost link shows at the other
port as its peer's reset.
That power-up is one command, and configuration space answers at once, are the model's choices (logs 126, 170). -/
def Obligations.PowerAndResets : Prop :=
  ∀ (s : State) (u : PowerUp), s.dev.Mirrors →
    (∀ c, c = Instr.powerUp u ∨ c = .inputRestored u →
      s.dev.pwr.inRange = decide (c = .powerUp u) → (c = .inputRestored u → s.dev.pwr.en = true) →
      s.dev.pwr.trip = false → s.dev.rdBool .ident 0x100 0 = false →
      (s.dev.boots u → Makes c s fun e => e.rd .ident 0x100 0 = 1 ∧ e.rd .ident 0x100 1 = 12 ∧ e.powered = true) ∧
      (s.dev.bootSlot = none → Makes c s fun e => e.rd .ident 0x100 0 = 0 ∧ e.rd .ident 0x100 1 = 3) ∧
      (s.dev.bootSlot ≠ none → u.factoryOk = false → Makes c s fun e =>
        e.rd .ident 0x100 0 = 0 ∧ e.rd .ident 0x100 1 = 4 ∧ e.mem = Mem.empty)) ∧
    (s.dev.pwr.inRange = false → s.dev.pwr.en = false → exec (.inputRestored u) s = .next { s with
      dev := { s.dev.quiet with pwr := { s.dev.pwr with inRange := true } } }) ∧
    Makes .powerDown s (fun e => e.pwr.en = false ∧ e.pwr.good = false ∧ e.pwr.trip = false ∧ e.mem = Mem.empty ∧
      e.rd .ident 0x100 0 = 0 ∧ e.record = s.dev.record ∧ .pin "PWR_GOOD" false ∈ e.out) ∧
    Makes .inputFault s (fun e => e.pwr.inRange = false ∧ e.pwr.good = false ∧ e.mem = Mem.empty ∧
      e.rd .ident 0x100 0 = 0 ∧ e.record = s.dev.record) ∧
    (s.dev.powered = true → s.dev.boots u →
      Makes (.reset u) s (fun e => e.resp = .ok ∧ e.rd .ident 0x100 0 = 1 ∧ e.rd .ident 0x100 1 = 12) ∧
      ∀ t, Makes (.wholeDeviceReset t u) s fun e => e.rd .ident 0x100 0 = 1 ∧ e.rd .ident 0x100 1 = 12) ∧
    (∀ p ev, s.dev.rdBool .ident 0x100 0 = true →
      ((s.dev.port p.other).perst = false ∨ ev ≠ .perst) → Makes (.portReset p ev u) s fun e =>
        e.takeState p = 0 ∧ (e.reel p).key = none ∧ (e.port p).msix = [] ∧ (e.port p).pba = [] ∧
        e.rd (hpPage p) 0x070 0 = (s.dev.rd (hpPage p) 0x070 0 + 1) % 2 ^ 64 ∧
        (ev = .flr → e.rd (hpPage p) 0x104 0 = s.dev.rd (hpPage p) 0x104 0) ∧
        (ev ≠ .flr → e.rd (hpPage p) 0x104 0 = 0 ∧ e.rd (hpPage p.other) 0x104 11 = 2) ∧
        (ev = .perst → (e.port p).perst = true ∧ (e.port p).cfg = false)) ∧
    (∀ p, s.dev.powered = true → s.dev.boots u → (s.dev.port p.other).perst = true →
      Makes (.portReset p .perst u) s fun e => e.rd .ident 0x100 0 = 1 ∧ (e.port p).perst = true) ∧
    (∀ p rate width flit ecrc bar2, (s.dev.port p).perst = false → s.dev.powered = true → rate ≤ 5 → 1 ≤ width →
      width ≤ 16 → 30 ≤ bar2 → bar2 ≤ 36 → Makes (.pcieLinkUp p rate width flit ecrc bar2) s fun e =>
        e.rd (hpPage p) 0x104 0 = 1 ∧ e.rd (hpPage p) 0x104 1 = rate ∧ e.rd (hpPage p) 0x104 4 = width ∧
        e.rdBool (hpPage p) 0x104 9 = ecrc ∧ e.rdBool (hpPage p) 0x104 10 = flit ∧ e.winSize p = 2 ^ bar2 ∧
        e.rd (hpPage p.other) 0x104 11 = 0 ∧ e.mem = s.dev.mem) ∧
    ∀ p, exec (.perstRelease p) s = .next { s with
        dev := s.dev.quiet.setPort p { s.dev.port p with perst := false, cfg := true } } ∧
      ∀ d3, exec (.powerStateChange p d3) s = .next { s with
        dev := s.dev.quiet.setPort p { s.dev.port p with d3 := d3 } }

/-! ### The sideband and the cages (R420 to R430) -/

/-- Register reads and writes of the sideband, all words or none, not ready before power is up; sensors in their units, the fault sensor releasing
ALERT_N; the debug UART takes bytes in the factory state only (R420 to R423).
The response `unsupported` to a request it cannot serve is the model's choice (log 172). -/
def Obligations.SidebandServes : Prop :=
  ∀ (s : State), s.dev.Mirrors →
    (∀ c ws a n x, (c = Instr.regRead a n ∨ c = .regWrite a ws ∧ ws.length = n) → s.dev.sideOk a n = false →
      (x = Resp.notReady ↔ s.dev.powered = false) → (x = .unsupported ↔ s.dev.powered = true) →
      exec c s = .next { s with dev := { s.dev.quiet with resp := x } }) ∧
    (∀ pg o, pageOf (pg.base + o) = some (pg, o) → s.dev.sideOk (pg.base + o) 1 = true →
      (s.dev.gone pg o = true → Makes (.regRead (pg.base + o) 1) s fun e => e.resp = .data 0xFFFFFFFF) ∧
      (s.dev.gone pg o = false → (∀ q, ¬(pg = .me q ∧ o = 0x128)) → Makes (.regRead (pg.base + o) 1) s fun e =>
        e.resp = .data (s.dev.regValue pg o) ∧ e.mem = s.dev.mem)) ∧
    (∀ a ws, s.dev.sideOk a ws.length = true →
      (∃ i < ws.length, ∀ pg o, pageOf (a + 4 * i) = some (pg, o) → sidebandMay pg o = false) →
      exec (.regWrite a ws) s = .next { s with dev := { s.dev.quiet with resp := .denied } }) ∧
    (∀ v, s.dev.powered = true → s.dev.gone .sluice 0x110 = false → v < 2 ^ 32 → wordReserved .sluice 0x110 v = false →
      Makes (.regWrite ((Page.sluice).base + 0x110) [v]) s fun e => e.resp = .ok ∧ e.rd .sluice 0x110 0 = bits v 0 16 ∧
        e.rd .sluice 0x114 0 = e.budget) ∧
    (∀ sensor sensed, 1 ≤ sensor → sensor ≤ 9 → Makes (.pldmSensorRead sensor sensed) s fun e =>
      ∃ v, e.resp = .data v ∧ .pldm sensor v ∈ e.out ∧ v = e.sensor sensor ∧
        (sensor = 3 → v = sensed % 2 ^ 16 / 10) ∧ (sensor = 5 → v = sensed % 2 ^ 8) ∧
        (sensor = 9 → e.pwr.alert = false ∧ (s.dev.pwr.alert = true → .pin "ALERT_N" true ∈ e.out))) ∧
    (∀ sensor sensed, (sensor = 0 ∨ 9 < sensor) → exec (.pldmSensorRead sensor sensed) s = .next { s with
      dev := { s.dev.quiet with resp := .unsupported } }) ∧
    ∀ b, (s.dev.rdBool .entCell 0x104 9 = true → exec (.debugUartInput b) s = .next { s with
        dev := { s.dev.quiet with pwr := { s.dev.pwr with uartIn := s.dev.pwr.uartIn ++ [b % 256] } } }) ∧
      (s.dev.rdBool .entCell 0x104 9 = false → exec (.debugUartInput b) s = .next { s with dev := s.dev.quiet })

/-- A touch of 300 ms or more and the attention button count and drain a cage in SERVICE, link by link; a WAITING cage is
DRAINED at once by a touch and goes into SERVICE by a press, which also returns a DRAINED one. Drained links return by
UNDRAIN. A cable that may be powered is, and its links train once it reports ready; another, or one that faults, is
REFUSED; one removed leaves the cage EMPTY (R425 to R430).
The states in between are the model's reading (logs 112, 174). -/
def Obligations.CagesServe : Prop :=
  ∀ (s : State) (k : Nat), s.dev.Mirrors → k < 16 →
    (∀ c off, ((∃ ms, 300 ≤ ms ∧ c = Instr.touch k ms ∧ s.dev.rdBool (.cage k) 0x100 2 = true ∧ off = 0x040) ∨
        (c = .attentionButton k ∧ s.dev.rdBool (.cage k) 0x100 3 = true ∧ off = 0x048)) →
      Makes c s fun e => e.mem = s.dev.mem ∧ e.rd (.cage k) off 0 = (s.dev.rd (.cage k) off 0 + 1) % 2 ^ 64 ∧
        (s.dev.cageState k = 3 → (∀ i ∈ cageLinks k, s.dev.linkState i = 2 ∨ s.dev.linkState i = 3 → e.linkState i = 4) ∧
          (e.cageState k = 4 ∨ e.cageState k = 5))) ∧
    (∀ ms, 300 ≤ ms → s.dev.rdBool (.cage k) 0x100 2 = true → s.dev.cageState k = 2 → Makes (.touch k ms) s fun e =>
      e.cageState k = 5 ∧ ∀ i ∈ cageLinks k, s.dev.linkState i = 2 ∨ s.dev.linkState i = 3 → e.linkState i = 5) ∧
    (s.dev.rdBool (.cage k) 0x100 3 = true →
      (s.dev.cageState k = 2 ∨ s.dev.cageState k = 5 ∧ s.dev.rdBool (.cage k) 0x104 3 = true) →
      Makes (.attentionButton k) s fun e => e.cageState k = 3) ∧
    (∀ w i, i ∈ cageLinks k → s.dev.canWrite w (.link i) 0x200 → s.dev.linkState i = 5 → Makes (.undrain w i) s fun e =>
      e.linkState i = (if s.dev.rdBool (.link i) 0x104 5 && s.dev.rdBool (.link i) 0x104 6 then 2 else 3) ∧
      (s.dev.cageState k = 5 → (∀ j ∈ cageLinks k, j ≠ i → s.dev.linkState j ≠ 5) → e.cageState k = 3)) ∧
    (∀ i, i ∈ cageLinks k → s.dev.linkState i = 4 → (s.dev.link i).replay = [] →
      (∀ p, (s.dev.take p).links.contains i = false) → Makes (.linkDrained i) s fun e => e.linkState i = 5 ∧
        (s.dev.cageState k = 4 → (∀ j ∈ cageLinks k, j ≠ i → s.dev.linkState j ≠ 4) → e.cageState k = 5)) ∧
    (∀ osfp8 power ident, findKey k s.dev.pwr.cables = none → s.dev.rdBool .ident 0x100 0 = true →
      Makes (.cableInsert k osfp8 power ident) s fun e => e.rd (.cage k) 0x104 3 = 1 ∧
        e.rd (.cage k) 0x10C 0 = power % 256 ∧ e.rd (.cage k) 0x10C 8 = ident % 256 ∧
        (osfp8 = true → power ≤ 60 → s.dev.rd .modPage 0x10C 0 + power ≤ 800 → e.cageState k = 1 ∧
          e.rd (.cage k) 0x104 5 = 1 ∧ e.rd .modPage 0x10C 0 = s.dev.rd .modPage 0x10C 0 + power) ∧
        ((osfp8 = false ∨ 60 < power ∨ 800 < s.dev.rd .modPage 0x10C 0 + power) → e.cageState k = 6 ∧
          e.rd .modPage 0x10C 0 = s.dev.rd .modPage 0x10C 0)) ∧
    (s.dev.cageState k = 1 →
      Makes (.cableReady k false) s (fun e => ∀ i ∈ cageLinks k, s.dev.mayTrain i = true → s.dev.linkState i = 0 →
        e.linkState i = 1) ∧
      Makes (.cableReady k true) s fun e => e.cageState k = 6 ∧ e.rd (.cage k) 0x104 5 = 0) ∧
    (s.dev.rdBool (.cage k) 0x104 3 = true → Makes (.cableRemoved k) s fun e => e.cageState k = 0 ∧
      e.rd (.cage k) 0x104 3 = 0 ∧ e.rd (.cage k) 0x104 5 = 0 ∧
      ∀ i ∈ cageLinks k, e.linkState i = (if s.dev.linkState i = 6 then 6 else 0))

/-! ### Solcorin links (R291 to R319) -/

/-- A link in training that finds its partner is UP at the highest generation both allow, with both lanes, fresh numbering
and full credits; one that fails is DOWN and may try again. Retraining and recalibration wait while a running take
lists the link, whatever its state; a loss of signal takes the link DOWN (R294, R295, R300).
That retraining restarts numbers and credits is the model's choice (log 111). -/
def Obligations.LinksTrain : Prop :=
  ∀ (s : State) (i : Nat), s.dev.Mirrors → i < 64 →
    (∀ dev plink offer family gen, s.dev.linkState i = 1 → offer % 4 ≠ 0 → family % 4 ≤ 2 →
      gen = min (min (offer % 4) (s.dev.rd (.link i) 0x100 2)) (3 - family % 4) →
      Makes (.linkTrained i dev plink offer family) s fun e =>
        e.linkState i = 2 ∧ e.rd (.link i) 0x104 3 = gen ∧ e.rd (.link i) 0x104 5 = 1 ∧ e.rd (.link i) 0x104 6 = 1 ∧
        e.rd (.link i) 0x108 0 = dev % 1024 ∧ e.rd (.link i) 0x108 10 = plink % 64 ∧ e.rd (.link i) 0x108 20 = 1 ∧
        e.rd (.link i) 0x110 0 = 0 ∧ (e.link i).half = none ∧ (e.link i).heard = false ∧ (e.link i).due = 0 ∧
        (e.link i).replay = [] ∧ (e.link i).bulk = 64 ∧ (e.link i).red = 32 ∧
        (e.link i).ctlCr = 32 ∧ (e.link i).rxSeq = 255 ∧ e.mem = s.dev.mem) ∧
    (s.dev.linkState i = 1 → Makes (.linkTrainFail i) s fun e => e.linkState i = 0 ∧ e.mem = s.dev.mem) ∧
    (s.dev.mayTrain i = true → s.dev.linkState i = 0 → Makes (.linkTrainRetry i) s fun e =>
      e.linkState i = 1 ∧ e.mem = s.dev.mem) ∧
    (∀ w, s.dev.canWrite w (.link i) 0x200 →
      (s.dev.mayTrain i = true →
        (s.dev.takeOf (.link i) = none → s.dev.linkState i ≤ 3 → Makes (.retrain w i) s fun e =>
          e.linkState i = 1 ∧ e.rd (.link i) 0x104 5 = 0 ∧ e.rd (.link i) 0x104 6 = 0 ∧ e.mem = s.dev.mem) ∧
        (s.dev.takeOf (.link i) ≠ none → Makes (.retrain w i) s fun e =>
          (e.link i).retrain = true ∧ e.linkState i = s.dev.linkState i ∧ e.mem = s.dev.mem)) ∧
      ((s.dev.link i).recal = 0 → (s.dev.takeOf (.link i) ≠ none ∨ s.dev.linkState i = 2 ∨ s.dev.linkState i = 3) →
        Makes (.recal w i) s fun e =>
        e.rd (.link i) 0x104 8 = 1 ∧ e.linkState i = s.dev.linkState i ∧
        (e.link i).recal = (if (s.dev.takeOf (.link i)).isSome then 1 else 2) ∧ e.mem = s.dev.mem)) ∧
    (s.dev.recalibrating i = true → Makes (.recalibrationDone i) s fun e =>
      e.rd (.link i) 0x104 8 = 0 ∧ (e.link i).recal = 0 ∧ e.linkState i = s.dev.linkState i ∧ e.mem = s.dev.mem) ∧
    (s.dev.linkState i ≠ 6 → Makes (.lossOfSignal i) s fun e =>
      e.linkState i = 0 ∧ (e.link i).replay = [] ∧ (e.link i).half = none ∧ e.rd (.link i) 0x104 5 = 0 ∧ e.rd (.link i) 0x104 6 = 0 ∧
      e.mem = s.dev.mem)

/-- A flit is 256 bytes: `seq`, `vc` and no idle or reserved bit in its first two bytes, the body in bytes 2 to 251, the
CRC-32C of bytes 0 to 251 in the last four (R298). A codeword holds the control word in its bytes 0 to 7, then flit A,
then flit B (R296); the control word holds the acknowledgement, its valid bit, the NAK and the credits due (R297). While
32 flits are unacknowledged the transmitter sends idle flits (R301). -/
def Obligations.FlitsLaidOut : Prop :=
  (∀ seq vc body f : Nat, seq < 2 ^ 8 → vc < 2 ^ 2 → body < 2 ^ 2000 → f = mkFlit seq vc body →
    f < 2 ^ 2048 ∧ flitSeq f = seq ∧ flitVc f = vc ∧ flitIdle f = false ∧ bits f 11 5 = 0 ∧ flitBody f = body ∧
    bits f 2016 32 = crc32c ((leBytes 256 f).take 252) ∧ flitCrcOk f = true) ∧
  (∀ word a b : Nat, word < 2 ^ 64 → a < 2 ^ 2048 → b < 2 ^ 2048 →
    bits (mkCodeword word a b) 0 64 = word ∧ bits (mkCodeword word a b) 64 2048 = a ∧
    bits (mkCodeword word a b) 2112 2048 = b ∧ mkCodeword word a b < 2 ^ 4160) ∧
  (∀ (l : LinkSt) (k0 k1 k2 : Nat), k0 < 2 ^ 8 → k1 < 2 ^ 8 → k2 < 2 ^ 8 → l.due = 2 ^ 16 * k0 + 2 ^ 24 * k1 + 2 ^ 32 * k2 →
    bits l.word 0 8 = l.rxSeq % 2 ^ 8 ∧ bit l.word 8 = l.heard ∧ bit l.word 9 = l.nak ∧ bits l.word 10 6 = 0 ∧
    bits l.word 16 8 = k0 ∧ bits l.word 24 8 = k1 ∧ bits l.word 32 8 = k2 ∧ bits l.word 40 24 = 0) ∧
  ∀ (s : State) (i : Nat) (wait : Option Wait), s.dev.Mirrors → s.dev.linkCarries i = true →
    32 ≤ (s.dev.link i).replay.length → Makes (.linkTransmit i wait) s fun e =>
      e.mem = s.dev.mem ∧ e.rd (.link i) 0x110 0 = s.dev.rd (.link i) 0x110 0 ∧
      ((s.dev.link i).half = none → e.link i = { s.dev.link i with half := some idleFlit } ∧ e.out = []) ∧
      ∀ a, (s.dev.link i).half = some a → e.link i = { s.dev.link i with half := none, due := 0 } ∧
        e.out = [.codeword i (mkCodeword (s.dev.link i).word a idleFlit)]

/-- A flit position carries the oldest clapper flit first, else the flit its slot names, else a control flit; each takes
the next sequence number, uses a credit and stays in the replay buffer until a control word acknowledges it, and where
nothing may go an idle flit goes; a second flit completes the codeword; a control word returns credits and its NAK replays
what is left. A forked flit leaves on every branch at once, or, too long
waiting, is a lasting fault (R297 to R300, R304, R312). -/
def Obligations.LinksTransmit : Prop :=
  (∀ (s : State) (i seq : Nat), s.dev.Mirrors → s.dev.linkCarries i = true → seq = s.dev.rd (.link i) 0x110 0 →
    ((s.dev.link i).replay.length < 32 →
      (∀ c cs wait, (s.dev.link i).clap = c :: cs → s.dev.rdBool .ident 0x10C 16 = true →
        Makes (.linkTransmit i wait) s fun e => (e.link i).clap = cs ∧
          (e.link i).replay = (s.dev.link i).replay ++ [mkFlit seq vcClap c] ∧
          e.rd (.link i) 0x110 0 = (seq + 1) % 256 ∧ e.out = ((s.dev.link i).sends i [mkFlit seq vcClap c]).1 ∧
          (e.link i).half = ((s.dev.link i).sends i [mkFlit seq vcClap c]).2.half ∧ e.mem = s.dev.mem) ∧
      (∀ x xs b, (s.dev.link i).clap = [] → s.dev.slotCount i = 0 → (s.dev.link i).ctl = x :: xs →
        (x = .service b ∧ s.dev.rdBool .ident 0x10C 16 = true ∨ x = .management b) → 0 < (s.dev.link i).ctlCr →
        Makes (.linkTransmit i none) s fun e => (e.link i).ctl = xs ∧
          (e.link i).replay = (s.dev.link i).replay ++ [mkFlit seq vcCtl b] ∧
          (e.link i).ctlCr = (s.dev.link i).ctlCr - 1 ∧ e.rd (.link i) 0x110 0 = (seq + 1) % 256 ∧
          e.out = ((s.dev.link i).sends i [mkFlit seq vcCtl b]).1 ∧
          (e.link i).half = ((s.dev.link i).sends i [mkFlit seq vcCtl b]).2.half ∧ e.mem = s.dev.mem) ∧
      ((s.dev.link i).clap = [] → s.dev.slotCount i = 0 → ((s.dev.link i).ctl = [] ∨ (s.dev.link i).ctlCr = 0) →
        Makes (.linkTransmit i none) s fun e => (e.link i).replay = (s.dev.link i).replay ∧ e.mem = s.dev.mem ∧
          (e.link i).half = (if (s.dev.link i).half = none then some idleFlit else none)) ∧
      (∀ sl vc b bs, (s.dev.link i).clap = [] → s.dev.rdBool .ident 0x10C 16 = true → s.dev.slotCount i ≠ 0 → sl = s.dev.slotOf i (s.dev.link i).txPos →
        slotTxVc sl ≠ 0 → vc = slotVc (slotTxVc sl) → tget [] (s.dev.link i).flows (slotTxFlow sl) = b :: bs →
        0 < (if vc = vcBulk then (s.dev.link i).bulk else (s.dev.link i).red) →
        Makes (.linkTransmit i none) s fun e =>
          tget [] (e.link i).flows (slotTxFlow sl) = bs ∧
          (e.link i).txPos = ((s.dev.link i).txPos + 1) % s.dev.slotCount i ∧
          (e.link i).replay = (s.dev.link i).replay ++ [mkFlit seq vc b] ∧
          e.out = ((s.dev.link i).sends i [mkFlit seq vc b]).1 ∧
          (e.link i).half = ((s.dev.link i).sends i [mkFlit seq vc b]).2.half ∧ e.mem = s.dev.mem)) ∧
    (∀ word c0 c1, bits word 10 6 = 0 → bits word 40 24 = 0 → Makes (.linkControlWord i word c0 c1) s fun e =>
      (e.link i).bulk = min 64 ((s.dev.link i).bulk + bits word 16 8) ∧
      (e.link i).red = min 32 ((s.dev.link i).red + bits word 24 8) ∧
      (e.link i).ctlCr = min 32 ((s.dev.link i).ctlCr + bits word 32 8) ∧ e.mem = s.dev.mem ∧
      (bit word 8 = false → (e.link i).replay = (s.dev.link i).replay) ∧
      (∀ k, bit word 8 = true → (s.dev.link i).replay.findIdx? (fun f => flitSeq f == bits word 0 8) = some k →
        (e.link i).replay = (s.dev.link i).replay.drop (k + 1) ∧ e.rd (.link i) 0x110 8 = bits word 0 8) ∧
      (bit word 9 = true → e.out = ((s.dev.link i).sends i (e.link i).replay).1 ∧
        (e.link i).half = ((s.dev.link i).sends i (e.link i).replay).2.half) ∧
      (bit word 9 = false → e.out = [] ∧ (e.link i).half = (s.dev.link i).half)) ∧
    (∀ word c0 c1, (bits word 10 6 ≠ 0 ∨ bits word 40 24 ≠ 0) → Makes (.linkControlWord i word c0 c1) s fun e =>
      (e.link i).replay = (s.dev.link i).replay ∧ (e.link i).bulk = (s.dev.link i).bulk ∧ e.out = [])) ∧
  (∀ (s : State) (q flow : Nat) (x : Nat × Nat) (bs : List Nat), s.dev.Mirrors → q < 4 →
    (s.dev.gw q).forks.find? (·.1 == flow) = some x → bs = s.dev.branches q flow →
    (bs ≠ [] → s.dev.rdBool .ident 0x10C 16 = true → (∀ j ∈ bs, s.dev.linkCarries j = true ∧ (s.dev.link j).replay.length < 32 ∧
        slotTxVc (s.dev.slotOf j (s.dev.link j).txPos) ≠ 0 ∧ slotTxFlow (s.dev.slotOf j (s.dev.link j).txPos) = flow ∧
        0 < (if slotTxVc (s.dev.slotOf j (s.dev.link j).txPos) = 1 then (s.dev.link j).bulk else (s.dev.link j).red)) →
      Makes (.forkRelease q flow) s fun e =>
        (∀ j ∈ bs, (e.link j).replay = (s.dev.link j).replay ++ [mkFlit (s.dev.rd (.link j) 0x110 0)
          (slotVc (slotTxVc (s.dev.slotOf j (s.dev.link j).txPos))) x.2]) ∧
        (e.gw q).forks = (s.dev.gw q).forks.erase x ∧
        e.rd (.gw q) 0x050 0 = (s.dev.rd (.gw q) 0x050 0 + 1) % 2 ^ 64) ∧
    Makes (.mcastStall q flow) s fun e => (e.gw q).forks = (s.dev.gw q).forks.erase x ∧ e.rd (.gw q) 0x018 3 = 1 ∧
      e.mem = s.dev.mem ∧ ∀ p, s.dev.takeOf (.gw q) = some p → (e.take p).stops.lost = true)

/-- A sound flit in order is acknowledged, and its credit is due; a scheduled one must carry the flow its slot names, and is delivered, forwarded
or a schedule fault. A flit that fails is refused with a NAK, a second time running a lasting fault that costs the
worse lane or the link. A device without its number acts on no scheduled flit (R295). A recovery flit is taken once, in its failed link's order (R300, R302, R305, R306).
The form of a recovery flit is the model's choice (log 111). -/
def Obligations.LinksReceive : Prop :=
  ∀ (s : State) (i : Nat), s.dev.Mirrors →
    (∀ flit vc b p k o, s.dev.takesFlit i flit → vc = flitVc flit → vc = vcBulk ∨ vc = vcRed → b = flitBody flit →
      s.dev.rdBool .ident 0x10C 16 = true → s.dev.legacy i = false → s.dev.takeOf (.link i) = some p → s.dev.nextRx i (s.dev.link i).rxPos = some k →
      o = 0x10000 + 16 * bodyFlow b →
      Makes (.linkScheduledFlit i flit) s fun e =>
        (e.link i).rxSeq = flitSeq flit ∧ (e.link i).heard = true ∧ (e.link i).nak = false ∧
        (e.link i).due = (s.dev.link i).due + (if vc = vcBulk then 2 ^ 16 else 2 ^ 24) ∧
        (e.link i).rxPos = (k + 1) % s.dev.slotCount i ∧
        (slotRxFlow (s.dev.slotOf i k) = bodyFlow b → slotVc (slotRxVc (s.dev.slotOf i k)) = vc →
          (s.dev.rdBool (.gw (i / 16)) o 2 = false →
            e.rd (.gw (i / 16)) 0x048 0 = (s.dev.rd (.gw (i / 16)) 0x048 0 + 1) % 2 ^ 64 ∧ e.mem = s.dev.mem) ∧
          (s.dev.rdBool (.gw (i / 16)) o 2 = true → s.dev.rd (.gw (i / 16)) o 0 = 2 → bodySegs b = 1 →
            ∀ a, a = 64 * s.dev.rd (.gw (i / 16)) (o + 8) 0 + 16 * tget 0 (s.dev.gw (i / 16)).offs (bodyFlow b) →
            a + 16 ≤ localSpace → e.ld a 16 = bodySeg b 0 ∧ s.dev.KeepsMem e a 16)) ∧
        (slotRxFlow (s.dev.slotOf i k) ≠ bodyFlow b → s.dev.takeOf (.gw (i / 16)) = some p →
          (e.take p).stops.schedule = true ∧ e.mem = s.dev.mem)) ∧
    (∀ flit, s.dev.takesFlit i flit → (flitVc flit = vcBulk ∨ flitVc flit = vcRed) →
      s.dev.rdBool .ident 0x10C 16 = false → Makes (.linkScheduledFlit i flit) s fun e =>
        (e.link i).rxSeq = flitSeq flit ∧ (e.link i).rxPos = (s.dev.link i).rxPos ∧ e.gws = s.dev.gws ∧ e.mem = s.dev.mem) ∧
    (∀ seq uncorr wait, s.dev.linkCarries i = true → seq % 256 ≠ ((s.dev.link i).rxSeq + 1) % 256 →
      Makes (.linkFlitError i seq uncorr wait) s fun e => e.links = s.dev.links ∧ e.mem = s.dev.mem ∧
        e.rd (.link i) (if uncorr then 0x058 else 0x060) 0 =
          (s.dev.rd (.link i) (if uncorr then 0x058 else 0x060) 0 + 1) % 2 ^ 64) ∧
    (∀ seq uncorr, s.dev.linkCarries i = true → seq % 256 = ((s.dev.link i).rxSeq + 1) % 256 →
      ((s.dev.link i).failed ≠ some (seq % 256) → ∀ wait, Makes (.linkFlitError i seq uncorr wait) s fun e =>
        (e.link i).nak = true ∧ (e.link i).failed = some (seq % 256) ∧ (e.link i).rxSeq = (s.dev.link i).rxSeq ∧
        e.rd (.link i) (if uncorr then 0x058 else 0x060) 0 =
          (s.dev.rd (.link i) (if uncorr then 0x058 else 0x060) 0 + 1) % 2 ^ 64 ∧ e.mem = s.dev.mem) ∧
      ((s.dev.link i).failed = some (seq % 256) →
        (s.dev.rdBool (.link i) 0x104 5 = true → s.dev.rdBool (.link i) 0x104 6 = true → s.dev.linkState i ≠ 4 →
          Makes (.linkFlitError i seq uncorr none) s fun e => e.linkState i = 3 ∧ e.rd (.link i) 0x018 3 = 1 ∧
            e.rd (.link i) 0x104 5 + e.rd (.link i) 0x104 6 = 1 ∧
            (((s.dev.link i).corr.map (·.1)).sum < ((s.dev.link i).corr.map (·.2)).sum →
              e.rd (.link i) 0x104 6 = 0)) ∧
        ((s.dev.rdBool (.link i) 0x104 5 && s.dev.rdBool (.link i) 0x104 6) = false →
          Makes (.linkFlitError i seq uncorr none) s fun e => e.linkState i = 0 ∧ e.rd (.link i) 0x018 3 = 1))) ∧
    (∀ seq vc body, i < 64 → (vc = vcBulk ∨ vc = vcRed) →
      ((seq % 256 + 255 - (s.dev.link i).rxSeq) % 256 < 128 → s.dev.rdBool .ident 0x10C 16 = true →
        Makes (.recoveryFlit i seq vc body) s fun e => (e.link i).rxSeq = seq % 256) ∧
      ((128 ≤ (seq % 256 + 255 - (s.dev.link i).rxSeq) % 256 ∨ s.dev.rdBool .ident 0x10C 16 = false) →
        exec (.recoveryFlit i seq vc body) s = .next { s with dev := s.dev.quiet }))

/-- An access of another device to DRAM of the link's partition is served, and a read answered by its route; any other is
refused; a flit for another device goes on along its route, or is answered with an error response where its next link is
out. A read response gives the pump its lines, an error
response halts it, a drain notice drains the link (R299, R310, R311). -/
def Obligations.ServiceTravels : Prop :=
  ∀ (s : State) (i flit n a tag : Nat) (b : Nat), s.dev.Mirrors → b = flitBody flit → n = bits (bodySeg b 0) 4 2 →
    a = bits (bodySeg b 0) 8 38 → tag = bits (bodySeg b 0) 46 16 →
    (bodyDst b = s.dev.devId →
      (s.dev.takesService i flit 0 → s.dev.svcAllowed i a n = true →
        (∀ k < n, s.dev.vaultField ((a + 64 * k) / 2 ^ 27) 4 0 ≠ 1) → Makes (.serviceWrite i flit) s fun e =>
          e.bytes a (64 * n) = ((List.range (4 * n)).flatMap fun j => leBytes 16 (bodySeg b (j + 1))) ∧
          s.dev.KeepsMem e a (64 * n)) ∧
      (s.dev.takesService i flit 1 → s.dev.svcAllowed i a n = true →
        (∀ k < n, s.dev.vaultField ((a + 64 * k) / 2 ^ 27) 4 0 ≠ 1 ∧
          s.dev.rd (vaultPage ((a + 64 * k) / 2 ^ 27)) 0x024 0 = 0) →
        ∀ route len, s.dev.routeTo (bodySrc b) = some (route, len) → s.dev.linkUsable (bits route 0 6) = true →
        Makes (.readRequest i flit) s fun e => e.mem = s.dev.mem ∧
          (e.link (bits route 0 6)).ctl = (s.dev.link (bits route 0 6)).ctl ++ [.service (mkBody
            { segs := 4 * n + 1, dst := bodySrc b, src := s.dev.devId, hop := 1 % (len + 1), lenM1 := len, route := route }
            (svcHeader 2 n a tag :: (List.range (4 * n)).map fun j => s.dev.ld (a + 16 * j) 16))]) ∧
      (∀ c op, (c, op) ∈ [(Instr.serviceWrite i flit, 0), (.readRequest i flit, 1)] → s.dev.takesService i flit op →
        s.dev.svcAllowed i a n = false → Makes c s fun e => e.mem = s.dev.mem ∧
          e.rd (.gw (i / 16)) 0x058 0 = (s.dev.rd (.gw (i / 16)) 0x058 0 + 1) % 2 ^ 64) ∧
      (∀ g j f, s.dev.takesService i flit 2 → s.dev.prog (tag / 2048) = some g → g.fetch[j]? = some f →
        f.data = none → f.space = 1 → j % 2047 = tag % 2048 →
        (∀ k < j, k % 2047 = j % 2047 → ∀ y, g.fetch[k]? = some y → y.data ≠ none ∨ y.space ≠ 1) →
        f.retried = false → f.len = 64 * n → (∃ y ∈ g.fetch.eraseIdx j, y.data = none) →
        Makes (.readResponse i flit) s fun e => e.mem = s.dev.mem ∧
          e.prog (tag / 2048) = some { g with fetch := setAt g.fetch j { f with
            data := some ((List.range (4 * n)).flatMap fun j => leBytes 16 (bodySeg b (j + 1))) } }) ∧
      (∀ g p, s.dev.takesService i flit 3 → s.dev.prog (tag / 2048) = some g → s.dev.pumpPort (tag / 2048) = some p →
        g.ch < 2048 → g.stop = false →
        s.dev.cringFull (cringOf p (s.dev.rd (.well (wellOf (tag / 2048) g.ch)) 0x08 12)) = false →
        (∀ pc loops, tag % 2048 = 2047 → g.rmt = some (pc, loops) → g.phase ≠ .ring →
          Makes (.errorResponse i flit) s fun e => e.prog (tag / 2048) = (s.dev.pump (tag / 2048)).held.head? ∧
            (e.chan (tag / 2048) g.ch).cause = 6 ∧ (e.chan (tag / 2048) g.ch).word = pc ∧ e.mem = s.dev.mem) ∧
        (g.phase ≠ .data → (∃ j, ∃ f ∈ g.fetch[j]?, f.data = none ∧ f.space = 1 ∧ j % 2047 = tag % 2048) →
          tag % 2048 ≠ 2047 → Makes (.errorResponse i flit) s fun e =>
            e.prog (tag / 2048) = (s.dev.pump (tag / 2048)).held.head? ∧
            (e.chan (tag / 2048) g.ch).cause = 6 ∧ (e.chan (tag / 2048) g.ch).word = g.pc ∧ e.mem = s.dev.mem))) ∧
    (∀ c op l, (c, op) ∈ [(Instr.serviceWrite i flit, 0), (.readRequest i flit, 1), (.readResponse i flit, 2),
        (.errorResponse i flit, 3)] → s.dev.takesService i flit op → bodyDst b ≠ s.dev.devId →
      bodyHop b ≤ bodyLenM1 b → l = bodyRoute b (bodyHop b) → s.dev.linkUsable l = true → Makes c s fun e =>
        (e.link l).ctl = (s.dev.link l).ctl ++ [.service (putBits b 36 2 (bodyHop b + 1))] ∧
        e.rd (.gw (i / 16)) 0x048 0 = (s.dev.rd (.gw (i / 16)) 0x048 0 + 1) % 2 ^ 64 ∧ e.mem = s.dev.mem) ∧
    (∀ c op l, (c, op) ∈ [(Instr.serviceWrite i flit, 0), (.readRequest i flit, 1)] → s.dev.takesService i flit op →
      bodyDst b ≠ s.dev.devId → l = bodyRoute b (bodyHop b) →
      (bodyLenM1 b < bodyHop b ∨ s.dev.linkUsable l = false) →
      ∀ route len, s.dev.routeTo (bodySrc b) = some (route, len) → s.dev.linkUsable (bits route 0 6) = true →
      Makes c s fun e => e.mem = s.dev.mem ∧ (e.link (bits route 0 6)).ctl =
        (s.dev.link (bits route 0 6)).ctl ++ [.service (mkBody
          { segs := 1, dst := bodySrc b, src := s.dev.devId, hop := 1 % (len + 1), lenM1 := len, route := route }
          [svcHeader 3 1 a tag])]) ∧
    (s.dev.takesFlit i flit → flitVc flit = vcCtl → bits (bodySeg b 0) 0 4 = 4 →
      (s.dev.linkState i = 2 ∨ s.dev.linkState i = 3 → Makes (.linkManagement i flit true) s fun e =>
        e.linkState i = 4 ∧ e.mem = s.dev.mem) ∧
      Makes (.linkManagement i flit false) s fun e => e.linkState i = s.dev.linkState i ∧
        (e.link i).rxSeq = flitSeq flit ∧ e.mem = s.dev.mem)

/-- The root keeps an arrival or a stop until every device has sent; then it sends its release to every device, or its stop
where one stopped or a number differs. A device that has sent its own goes on at the root's release, or starts its take,
or holds the release for a capture; a stop ends its occurrence with the message's status (R309, R339). A message for
another device goes on along its route (R310).
That one message is sent for each occurrence, and the form of the mesh flit that carries it to the clapper unit, are the
model's readings (logs 45, 210). -/
def Obligations.ClapsTravel : Prop :=
  ∀ (s : State) (i flit : Nat) (p : Port) (m id n : Nat), s.dev.Mirrors → m = bodySeg (flitBody flit) 0 →
    id = bits m 0 6 → n = bodySeg (flitBody flit) 1 →
    (∀ c kind b l, (c, kind) ∈ [(Instr.arrive i flit, 0), (.release i flit, 1), (.clapStop i flit, 2)] →
      s.dev.takesFlit i flit → flitVc flit = vcClap → bits m 6 2 = kind → s.dev.rdBool .ident 0x10C 16 = true →
      s.dev.legacy i = false → b = flitBody flit → bodyDst b ≠ s.dev.devId → bodyHop b ≤ bodyLenM1 b →
      l = bodyRoute b (bodyHop b) → s.dev.linkUsable l = true → Makes c s fun e =>
        (e.link l).clap = (s.dev.link l).clap ++ [putBits b 36 2 (bodyHop b + 1)] ∧ e.mem = s.dev.mem) ∧
    (s.dev.running p = true → (s.dev.take p).isXdev id = true →
      (∀ c kind x, (c, kind, x) ∈ [(Instr.arrive i flit, 0, (⟨id, 0, 0, bits m 16 10, bits m 32 48, bits n 0 64, bits n 64 64⟩ : XMsg)),
          (.clapStop i flit, 2, ⟨id, 2, bits m 8 8, bits m 16 10, (s.dev.take p).step, (s.dev.take p).cs.takeId, 0⟩)] →
        s.dev.takesClap i flit kind p → s.dev.logicalDev (s.dev.take p) = 0 →
        ((∃ k < (s.dev.take p).cs.devices.length, k ≠ bits m 16 10 ∧
            ∀ y ∈ (s.dev.take p).xmsgs, y.id = id → y.sender ≠ k) →
          Makes c s fun e => e.take p = { s.dev.take p with xmsgs := (s.dev.take p).xmsgs ++ [x] } ∧ e.mem = s.dev.mem ∧
            e.out = [.inject (gwNode (i / 16)) 3 (packWords 128 [m, n])
              (gwSide (i / 16) 3 clapNode (packWords 128 [m, n]))]) ∧
        (∀ ms, ms = ((s.dev.take p).xmsgs ++ [x]).filter (·.id == id) →
          (∀ k < (s.dev.take p).cs.devices.length, ∃ y ∈ ms, y.sender = k) →
          Makes c s fun e => ∀ k, 0 < k → k < (s.dev.take p).cs.devices.length →
            ((∀ y ∈ ms, y.kind = 0 ∧ y.takeId = (s.dev.take p).cs.takeId ∧ y.occ = tget 0 (s.dev.take p).occ id ∧
                y.step = (ms.headD x).step) →
              .clap k 1 id (tget 0 (s.dev.take p).occ id) ∈ e.out) ∧
            ((∃ y ∈ ms, y.kind = 2 ∨ y.kind = 0 ∧ (y.takeId ≠ (s.dev.take p).cs.takeId ∨
                y.occ ≠ tget 0 (s.dev.take p).occ id ∨ ∃ z ∈ ms, z.kind = 0 ∧ z.step ≠ y.step)) →
              .clap k 2 id (tget 0 (s.dev.take p).occ id) ∈ e.out ∧ e.takeState p = 5 ∧ (e.take p).stopId = id))) ∧
      (s.dev.takesClap i flit 1 p → s.dev.logicalDev (s.dev.take p) ≠ 0 → id ∈ (s.dev.take p).xsent →
        (id = 0 → (s.dev.take p).started = false → Makes (.release i flit) s fun e =>
          (e.take p).started = true ∧ tget 0 (e.take p).occ 0 = 1 ∧ e.mem = s.dev.mem) ∧
        ((id ≠ 0 ∨ (s.dev.take p).started = true) →
          (∀ area, s.dev.captures p id = some area → Makes (.release i flit) s fun e =>
            (e.take p).withheld = some (id, area) ∧ (e.take p).members = (s.dev.take p).members ∧
            e.takeState p = 4 ∧ e.mem = s.dev.mem) ∧
          (s.dev.captures p id = none →
            (id ≠ s.dev.endId p → Makes (.release i flit) s fun e =>
              tget 0 (e.take p).occ id = tget 0 (s.dev.take p).occ id + 1 ∧ e.takeState p = 4 ∧
              (∀ x ∈ (e.take p).members, x.arrived ≠ some id) ∧ e.mem = s.dev.mem) ∧
            (id = s.dev.endId p → Makes (.release i flit) s fun e =>
              e.takeState p = 5 ∧ (e.take p).status = 0)))) ∧
      (s.dev.takesClap i flit 2 p → s.dev.logicalDev (s.dev.take p) ≠ 0 → Makes (.clapStop i flit) s fun e =>
        e.takeState p = 5 ∧ (e.take p).status = bits m 8 8 ∧ (e.take p).stopId = id))

/-! ### What script instructions leave alone (R189, R322, R323) -/

/-- The commands that execute an instruction of a script of partition `p`. -/
def scriptCommands (p : Port) (k : Nat) (dsts : List Nat) (fmt : Nat) : List Instr :=
  [.nop p k, .endScript p k, .clap p k, .clapCut p k, .clapEarly p k, .loop p k, .mark p k, .waitSem p k, .postSem p k,
   .fetchSvc p k, .fieldInit p k, .sweep p k, .sweepSync p k, .sampleTap p k, .stateInit p k, .trueInit p k,
   .sampleTrue p k, .stripSend p k dsts fmt, .energyShare p k, .reduceSend p k, .mma p k, .mmaFlip p k, .mmaOuter p k,
   .drain p k, .fieldSet p k dsts, .fieldDiff p k dsts, .load p k, .store p k, .setGroups p k, .vnop p k, .vadd p k,
   .vsub p k, .vmul p k, .vfma p k, .vmax p k, .vcvt p k, .vsum p k, .vdot p k, .vln p k, .vnorm p k, .vnoise p k,
   .vrand p k, .vmove p k, .eacc p k, .eblock p k, .combine p k, .wupdate p k, .checkRow p k, .ladderRound p k,
   .phase p k, .cut p k, .watchdog p k]

/-- No script instruction touches the other partition's take, the pumps, the links and their gateways, the arbiters, the
host ports, the control complex, the module record, power, reels, or the banks and locks of the memories. -/
def Obligations.ScriptsStayInTake : Prop :=
  ∀ (s : State) (p : Port) (k : Nat) (dsts : List Nat) (fmt : Nat), ∀ c ∈ scriptCommands p k dsts fmt,
    Makes c s fun e => e.take p.other = s.dev.take p.other ∧ e.pumps = s.dev.pumps ∧ e.links = s.dev.links ∧
      e.gws = s.dev.gws ∧ e.arbs = s.dev.arbs ∧ e.portA = s.dev.portA ∧ e.portB = s.dev.portB ∧ e.ctl = s.dev.ctl ∧
      e.record = s.dev.record ∧ e.pwr = s.dev.pwr ∧ e.reelA = s.dev.reelA ∧ e.reelB = s.dev.reelB ∧
      e.banks = s.dev.banks ∧ e.sluice = s.dev.sluice ∧ e.rels = s.dev.rels
end

