-- ==== Sys2Proof/Laws/State.lean ====
section
/-!
SUPPORT. One lemma per field of the device and per update: what each update leaves as it was.
-/

namespace Sys2Proof.Machine

/-! ### `wr` -/

@[simp] theorem Dev.wr_mem (d : Dev) (pg : Page) (o lo v : Nat) : (d.wr pg o lo v).mem = d.mem := rfl
@[simp] theorem Dev.wr_free (d : Dev) (pg : Page) (o lo v : Nat) : (d.wr pg o lo v).free = d.free := rfl
@[simp] theorem Dev.wr_resp (d : Dev) (pg : Page) (o lo v : Nat) : (d.wr pg o lo v).resp = d.resp := rfl
@[simp] theorem Dev.wr_out (d : Dev) (pg : Page) (o lo v : Nat) : (d.wr pg o lo v).out = d.out := rfl
@[simp] theorem Dev.wr_takeA (d : Dev) (pg : Page) (o lo v : Nat) : (d.wr pg o lo v).takeA = d.takeA := rfl
@[simp] theorem Dev.wr_takeB (d : Dev) (pg : Page) (o lo v : Nat) : (d.wr pg o lo v).takeB = d.takeB := rfl
@[simp] theorem Dev.wr_tiles (d : Dev) (pg : Page) (o lo v : Nat) : (d.wr pg o lo v).tiles = d.tiles := rfl
@[simp] theorem Dev.wr_accs (d : Dev) (pg : Page) (o lo v : Nat) : (d.wr pg o lo v).accs = d.accs := rfl
@[simp] theorem Dev.wr_groups (d : Dev) (pg : Page) (o lo v : Nat) : (d.wr pg o lo v).groups = d.groups := rfl
@[simp] theorem Dev.wr_ent (d : Dev) (pg : Page) (o lo v : Nat) : (d.wr pg o lo v).ent = d.ent := rfl
@[simp] theorem Dev.wr_reelA (d : Dev) (pg : Page) (o lo v : Nat) : (d.wr pg o lo v).reelA = d.reelA := rfl
@[simp] theorem Dev.wr_reelB (d : Dev) (pg : Page) (o lo v : Nat) : (d.wr pg o lo v).reelB = d.reelB := rfl
@[simp] theorem Dev.wr_banks (d : Dev) (pg : Page) (o lo v : Nat) : (d.wr pg o lo v).banks = d.banks := rfl
@[simp] theorem Dev.wr_arbs (d : Dev) (pg : Page) (o lo v : Nat) : (d.wr pg o lo v).arbs = d.arbs := rfl
@[simp] theorem Dev.wr_held (d : Dev) (pg : Page) (o lo v : Nat) : (d.wr pg o lo v).held = d.held := rfl
@[simp] theorem Dev.wr_credit (d : Dev) (pg : Page) (o lo v : Nat) : (d.wr pg o lo v).credit = d.credit := rfl
@[simp] theorem Dev.wr_beatErrs (d : Dev) (pg : Page) (o lo v : Nat) : (d.wr pg o lo v).beatErrs = d.beatErrs := rfl
@[simp] theorem Dev.wr_pumps (d : Dev) (pg : Page) (o lo v : Nat) : (d.wr pg o lo v).pumps = d.pumps := rfl
@[simp] theorem Dev.wr_links (d : Dev) (pg : Page) (o lo v : Nat) : (d.wr pg o lo v).links = d.links := rfl
@[simp] theorem Dev.wr_gws (d : Dev) (pg : Page) (o lo v : Nat) : (d.wr pg o lo v).gws = d.gws := rfl
@[simp] theorem Dev.wr_portA (d : Dev) (pg : Page) (o lo v : Nat) : (d.wr pg o lo v).portA = d.portA := rfl
@[simp] theorem Dev.wr_portB (d : Dev) (pg : Page) (o lo v : Nat) : (d.wr pg o lo v).portB = d.portB := rfl
@[simp] theorem Dev.wr_ctl (d : Dev) (pg : Page) (o lo v : Nat) : (d.wr pg o lo v).ctl = d.ctl := rfl
@[simp] theorem Dev.wr_rels (d : Dev) (pg : Page) (o lo v : Nat) : (d.wr pg o lo v).rels = d.rels := rfl
@[simp] theorem Dev.wr_sluice (d : Dev) (pg : Page) (o lo v : Nat) : (d.wr pg o lo v).sluice = d.sluice := rfl
@[simp] theorem Dev.wr_pwr (d : Dev) (pg : Page) (o lo v : Nat) : (d.wr pg o lo v).pwr = d.pwr := rfl
@[simp] theorem Dev.wr_record (d : Dev) (pg : Page) (o lo v : Nat) : (d.wr pg o lo v).record = d.record := rfl

/-! ### `putBytes` -/

@[simp] theorem Dev.putBytes_regs (d : Dev) (a : Nat) (bs : List Byte) : (d.putBytes a bs).regs = d.regs := rfl
@[simp] theorem Dev.putBytes_free (d : Dev) (a : Nat) (bs : List Byte) : (d.putBytes a bs).free = d.free := rfl
@[simp] theorem Dev.putBytes_resp (d : Dev) (a : Nat) (bs : List Byte) : (d.putBytes a bs).resp = d.resp := rfl
@[simp] theorem Dev.putBytes_out (d : Dev) (a : Nat) (bs : List Byte) : (d.putBytes a bs).out = d.out := rfl
@[simp] theorem Dev.putBytes_takeA (d : Dev) (a : Nat) (bs : List Byte) : (d.putBytes a bs).takeA = d.takeA := rfl
@[simp] theorem Dev.putBytes_takeB (d : Dev) (a : Nat) (bs : List Byte) : (d.putBytes a bs).takeB = d.takeB := rfl
@[simp] theorem Dev.putBytes_tiles (d : Dev) (a : Nat) (bs : List Byte) : (d.putBytes a bs).tiles = d.tiles := rfl
@[simp] theorem Dev.putBytes_accs (d : Dev) (a : Nat) (bs : List Byte) : (d.putBytes a bs).accs = d.accs := rfl
@[simp] theorem Dev.putBytes_groups (d : Dev) (a : Nat) (bs : List Byte) : (d.putBytes a bs).groups = d.groups := rfl
@[simp] theorem Dev.putBytes_ent (d : Dev) (a : Nat) (bs : List Byte) : (d.putBytes a bs).ent = d.ent := rfl
@[simp] theorem Dev.putBytes_reelA (d : Dev) (a : Nat) (bs : List Byte) : (d.putBytes a bs).reelA = d.reelA := rfl
@[simp] theorem Dev.putBytes_reelB (d : Dev) (a : Nat) (bs : List Byte) : (d.putBytes a bs).reelB = d.reelB := rfl
@[simp] theorem Dev.putBytes_banks (d : Dev) (a : Nat) (bs : List Byte) : (d.putBytes a bs).banks = d.banks := rfl
@[simp] theorem Dev.putBytes_arbs (d : Dev) (a : Nat) (bs : List Byte) : (d.putBytes a bs).arbs = d.arbs := rfl
@[simp] theorem Dev.putBytes_held (d : Dev) (a : Nat) (bs : List Byte) : (d.putBytes a bs).held = d.held := rfl
@[simp] theorem Dev.putBytes_credit (d : Dev) (a : Nat) (bs : List Byte) : (d.putBytes a bs).credit = d.credit := rfl
@[simp] theorem Dev.putBytes_beatErrs (d : Dev) (a : Nat) (bs : List Byte) : (d.putBytes a bs).beatErrs = d.beatErrs := rfl
@[simp] theorem Dev.putBytes_pumps (d : Dev) (a : Nat) (bs : List Byte) : (d.putBytes a bs).pumps = d.pumps := rfl
@[simp] theorem Dev.putBytes_links (d : Dev) (a : Nat) (bs : List Byte) : (d.putBytes a bs).links = d.links := rfl
@[simp] theorem Dev.putBytes_gws (d : Dev) (a : Nat) (bs : List Byte) : (d.putBytes a bs).gws = d.gws := rfl
@[simp] theorem Dev.putBytes_portA (d : Dev) (a : Nat) (bs : List Byte) : (d.putBytes a bs).portA = d.portA := rfl
@[simp] theorem Dev.putBytes_portB (d : Dev) (a : Nat) (bs : List Byte) : (d.putBytes a bs).portB = d.portB := rfl
@[simp] theorem Dev.putBytes_ctl (d : Dev) (a : Nat) (bs : List Byte) : (d.putBytes a bs).ctl = d.ctl := rfl
@[simp] theorem Dev.putBytes_rels (d : Dev) (a : Nat) (bs : List Byte) : (d.putBytes a bs).rels = d.rels := rfl
@[simp] theorem Dev.putBytes_sluice (d : Dev) (a : Nat) (bs : List Byte) : (d.putBytes a bs).sluice = d.sluice := rfl
@[simp] theorem Dev.putBytes_pwr (d : Dev) (a : Nat) (bs : List Byte) : (d.putBytes a bs).pwr = d.pwr := rfl
@[simp] theorem Dev.putBytes_record (d : Dev) (a : Nat) (bs : List Byte) : (d.putBytes a bs).record = d.record := rfl

/-! ### `emit` -/

@[simp] theorem Dev.emit_regs (d : Dev) (x : Out) : (d.emit x).regs = d.regs := rfl
@[simp] theorem Dev.emit_mem (d : Dev) (x : Out) : (d.emit x).mem = d.mem := rfl
@[simp] theorem Dev.emit_free (d : Dev) (x : Out) : (d.emit x).free = d.free := rfl
@[simp] theorem Dev.emit_resp (d : Dev) (x : Out) : (d.emit x).resp = d.resp := rfl
@[simp] theorem Dev.emit_takeA (d : Dev) (x : Out) : (d.emit x).takeA = d.takeA := rfl
@[simp] theorem Dev.emit_takeB (d : Dev) (x : Out) : (d.emit x).takeB = d.takeB := rfl
@[simp] theorem Dev.emit_tiles (d : Dev) (x : Out) : (d.emit x).tiles = d.tiles := rfl
@[simp] theorem Dev.emit_accs (d : Dev) (x : Out) : (d.emit x).accs = d.accs := rfl
@[simp] theorem Dev.emit_groups (d : Dev) (x : Out) : (d.emit x).groups = d.groups := rfl
@[simp] theorem Dev.emit_ent (d : Dev) (x : Out) : (d.emit x).ent = d.ent := rfl
@[simp] theorem Dev.emit_reelA (d : Dev) (x : Out) : (d.emit x).reelA = d.reelA := rfl
@[simp] theorem Dev.emit_reelB (d : Dev) (x : Out) : (d.emit x).reelB = d.reelB := rfl
@[simp] theorem Dev.emit_banks (d : Dev) (x : Out) : (d.emit x).banks = d.banks := rfl
@[simp] theorem Dev.emit_arbs (d : Dev) (x : Out) : (d.emit x).arbs = d.arbs := rfl
@[simp] theorem Dev.emit_held (d : Dev) (x : Out) : (d.emit x).held = d.held := rfl
@[simp] theorem Dev.emit_credit (d : Dev) (x : Out) : (d.emit x).credit = d.credit := rfl
@[simp] theorem Dev.emit_beatErrs (d : Dev) (x : Out) : (d.emit x).beatErrs = d.beatErrs := rfl
@[simp] theorem Dev.emit_pumps (d : Dev) (x : Out) : (d.emit x).pumps = d.pumps := rfl
@[simp] theorem Dev.emit_links (d : Dev) (x : Out) : (d.emit x).links = d.links := rfl
@[simp] theorem Dev.emit_gws (d : Dev) (x : Out) : (d.emit x).gws = d.gws := rfl
@[simp] theorem Dev.emit_portA (d : Dev) (x : Out) : (d.emit x).portA = d.portA := rfl
@[simp] theorem Dev.emit_portB (d : Dev) (x : Out) : (d.emit x).portB = d.portB := rfl
@[simp] theorem Dev.emit_ctl (d : Dev) (x : Out) : (d.emit x).ctl = d.ctl := rfl
@[simp] theorem Dev.emit_rels (d : Dev) (x : Out) : (d.emit x).rels = d.rels := rfl
@[simp] theorem Dev.emit_sluice (d : Dev) (x : Out) : (d.emit x).sluice = d.sluice := rfl
@[simp] theorem Dev.emit_pwr (d : Dev) (x : Out) : (d.emit x).pwr = d.pwr := rfl
@[simp] theorem Dev.emit_record (d : Dev) (x : Out) : (d.emit x).record = d.record := rfl

/-! ### `fresh` -/

@[simp] theorem Dev.fresh_regs (d : Dev) : d.fresh.2.regs = d.regs := rfl
@[simp] theorem Dev.fresh_mem (d : Dev) : d.fresh.2.mem = d.mem := rfl
@[simp] theorem Dev.fresh_resp (d : Dev) : d.fresh.2.resp = d.resp := rfl
@[simp] theorem Dev.fresh_out (d : Dev) : d.fresh.2.out = d.out := rfl
@[simp] theorem Dev.fresh_takeA (d : Dev) : d.fresh.2.takeA = d.takeA := rfl
@[simp] theorem Dev.fresh_takeB (d : Dev) : d.fresh.2.takeB = d.takeB := rfl
@[simp] theorem Dev.fresh_tiles (d : Dev) : d.fresh.2.tiles = d.tiles := rfl
@[simp] theorem Dev.fresh_accs (d : Dev) : d.fresh.2.accs = d.accs := rfl
@[simp] theorem Dev.fresh_groups (d : Dev) : d.fresh.2.groups = d.groups := rfl
@[simp] theorem Dev.fresh_ent (d : Dev) : d.fresh.2.ent = d.ent := rfl
@[simp] theorem Dev.fresh_reelA (d : Dev) : d.fresh.2.reelA = d.reelA := rfl
@[simp] theorem Dev.fresh_reelB (d : Dev) : d.fresh.2.reelB = d.reelB := rfl
@[simp] theorem Dev.fresh_banks (d : Dev) : d.fresh.2.banks = d.banks := rfl
@[simp] theorem Dev.fresh_arbs (d : Dev) : d.fresh.2.arbs = d.arbs := rfl
@[simp] theorem Dev.fresh_held (d : Dev) : d.fresh.2.held = d.held := rfl
@[simp] theorem Dev.fresh_credit (d : Dev) : d.fresh.2.credit = d.credit := rfl
@[simp] theorem Dev.fresh_beatErrs (d : Dev) : d.fresh.2.beatErrs = d.beatErrs := rfl
@[simp] theorem Dev.fresh_pumps (d : Dev) : d.fresh.2.pumps = d.pumps := rfl
@[simp] theorem Dev.fresh_links (d : Dev) : d.fresh.2.links = d.links := rfl
@[simp] theorem Dev.fresh_gws (d : Dev) : d.fresh.2.gws = d.gws := rfl
@[simp] theorem Dev.fresh_portA (d : Dev) : d.fresh.2.portA = d.portA := rfl
@[simp] theorem Dev.fresh_portB (d : Dev) : d.fresh.2.portB = d.portB := rfl
@[simp] theorem Dev.fresh_ctl (d : Dev) : d.fresh.2.ctl = d.ctl := rfl
@[simp] theorem Dev.fresh_rels (d : Dev) : d.fresh.2.rels = d.rels := rfl
@[simp] theorem Dev.fresh_sluice (d : Dev) : d.fresh.2.sluice = d.sluice := rfl
@[simp] theorem Dev.fresh_pwr (d : Dev) : d.fresh.2.pwr = d.pwr := rfl
@[simp] theorem Dev.fresh_record (d : Dev) : d.fresh.2.record = d.record := rfl

@[simp] theorem Dev.fresh_free (d : Dev) : d.fresh.2.free = d.free + 1 := rfl
@[simp] theorem Dev.emit_out (d : Dev) (x : Out) : (d.emit x).out = d.out ++ [x] := rfl

/-! ### `setTake` and `setPort` -/

@[simp] theorem Dev.setTake_regs (d : Dev) (p : Port) (t : Take) : (d.setTake p t).regs = d.regs := by cases p <;> rfl
@[simp] theorem Dev.setTake_mem (d : Dev) (p : Port) (t : Take) : (d.setTake p t).mem = d.mem := by cases p <;> rfl
@[simp] theorem Dev.setTake_free (d : Dev) (p : Port) (t : Take) : (d.setTake p t).free = d.free := by cases p <;> rfl
@[simp] theorem Dev.setTake_resp (d : Dev) (p : Port) (t : Take) : (d.setTake p t).resp = d.resp := by cases p <;> rfl
@[simp] theorem Dev.setTake_out (d : Dev) (p : Port) (t : Take) : (d.setTake p t).out = d.out := by cases p <;> rfl
@[simp] theorem Dev.setTake_tiles (d : Dev) (p : Port) (t : Take) : (d.setTake p t).tiles = d.tiles := by cases p <;> rfl
@[simp] theorem Dev.setTake_accs (d : Dev) (p : Port) (t : Take) : (d.setTake p t).accs = d.accs := by cases p <;> rfl
@[simp] theorem Dev.setTake_groups (d : Dev) (p : Port) (t : Take) : (d.setTake p t).groups = d.groups := by cases p <;> rfl
@[simp] theorem Dev.setTake_ent (d : Dev) (p : Port) (t : Take) : (d.setTake p t).ent = d.ent := by cases p <;> rfl
@[simp] theorem Dev.setTake_reelA (d : Dev) (p : Port) (t : Take) : (d.setTake p t).reelA = d.reelA := by cases p <;> rfl
@[simp] theorem Dev.setTake_reelB (d : Dev) (p : Port) (t : Take) : (d.setTake p t).reelB = d.reelB := by cases p <;> rfl
@[simp] theorem Dev.setTake_banks (d : Dev) (p : Port) (t : Take) : (d.setTake p t).banks = d.banks := by cases p <;> rfl
@[simp] theorem Dev.setTake_arbs (d : Dev) (p : Port) (t : Take) : (d.setTake p t).arbs = d.arbs := by cases p <;> rfl
@[simp] theorem Dev.setTake_held (d : Dev) (p : Port) (t : Take) : (d.setTake p t).held = d.held := by cases p <;> rfl
@[simp] theorem Dev.setTake_credit (d : Dev) (p : Port) (t : Take) : (d.setTake p t).credit = d.credit := by cases p <;> rfl
@[simp] theorem Dev.setTake_beatErrs (d : Dev) (p : Port) (t : Take) : (d.setTake p t).beatErrs = d.beatErrs := by cases p <;> rfl
@[simp] theorem Dev.setTake_pumps (d : Dev) (p : Port) (t : Take) : (d.setTake p t).pumps = d.pumps := by cases p <;> rfl
@[simp] theorem Dev.setTake_links (d : Dev) (p : Port) (t : Take) : (d.setTake p t).links = d.links := by cases p <;> rfl
@[simp] theorem Dev.setTake_gws (d : Dev) (p : Port) (t : Take) : (d.setTake p t).gws = d.gws := by cases p <;> rfl
@[simp] theorem Dev.setTake_portA (d : Dev) (p : Port) (t : Take) : (d.setTake p t).portA = d.portA := by cases p <;> rfl
@[simp] theorem Dev.setTake_portB (d : Dev) (p : Port) (t : Take) : (d.setTake p t).portB = d.portB := by cases p <;> rfl
@[simp] theorem Dev.setTake_ctl (d : Dev) (p : Port) (t : Take) : (d.setTake p t).ctl = d.ctl := by cases p <;> rfl
@[simp] theorem Dev.setTake_rels (d : Dev) (p : Port) (t : Take) : (d.setTake p t).rels = d.rels := by cases p <;> rfl
@[simp] theorem Dev.setTake_sluice (d : Dev) (p : Port) (t : Take) : (d.setTake p t).sluice = d.sluice := by cases p <;> rfl
@[simp] theorem Dev.setTake_pwr (d : Dev) (p : Port) (t : Take) : (d.setTake p t).pwr = d.pwr := by cases p <;> rfl
@[simp] theorem Dev.setTake_record (d : Dev) (p : Port) (t : Take) : (d.setTake p t).record = d.record := by cases p <;> rfl
@[simp] theorem Dev.setPort_regs (d : Dev) (p : Port) (q : PortSt) : (d.setPort p q).regs = d.regs := by cases p <;> rfl
@[simp] theorem Dev.setPort_mem (d : Dev) (p : Port) (q : PortSt) : (d.setPort p q).mem = d.mem := by cases p <;> rfl
@[simp] theorem Dev.setPort_free (d : Dev) (p : Port) (q : PortSt) : (d.setPort p q).free = d.free := by cases p <;> rfl
@[simp] theorem Dev.setPort_resp (d : Dev) (p : Port) (q : PortSt) : (d.setPort p q).resp = d.resp := by cases p <;> rfl
@[simp] theorem Dev.setPort_out (d : Dev) (p : Port) (q : PortSt) : (d.setPort p q).out = d.out := by cases p <;> rfl
@[simp] theorem Dev.setPort_takeA (d : Dev) (p : Port) (q : PortSt) : (d.setPort p q).takeA = d.takeA := by cases p <;> rfl
@[simp] theorem Dev.setPort_takeB (d : Dev) (p : Port) (q : PortSt) : (d.setPort p q).takeB = d.takeB := by cases p <;> rfl
@[simp] theorem Dev.setPort_tiles (d : Dev) (p : Port) (q : PortSt) : (d.setPort p q).tiles = d.tiles := by cases p <;> rfl
@[simp] theorem Dev.setPort_accs (d : Dev) (p : Port) (q : PortSt) : (d.setPort p q).accs = d.accs := by cases p <;> rfl
@[simp] theorem Dev.setPort_groups (d : Dev) (p : Port) (q : PortSt) : (d.setPort p q).groups = d.groups := by cases p <;> rfl
@[simp] theorem Dev.setPort_ent (d : Dev) (p : Port) (q : PortSt) : (d.setPort p q).ent = d.ent := by cases p <;> rfl
@[simp] theorem Dev.setPort_reelA (d : Dev) (p : Port) (q : PortSt) : (d.setPort p q).reelA = d.reelA := by cases p <;> rfl
@[simp] theorem Dev.setPort_reelB (d : Dev) (p : Port) (q : PortSt) : (d.setPort p q).reelB = d.reelB := by cases p <;> rfl
@[simp] theorem Dev.setPort_banks (d : Dev) (p : Port) (q : PortSt) : (d.setPort p q).banks = d.banks := by cases p <;> rfl
@[simp] theorem Dev.setPort_arbs (d : Dev) (p : Port) (q : PortSt) : (d.setPort p q).arbs = d.arbs := by cases p <;> rfl
@[simp] theorem Dev.setPort_held (d : Dev) (p : Port) (q : PortSt) : (d.setPort p q).held = d.held := by cases p <;> rfl
@[simp] theorem Dev.setPort_credit (d : Dev) (p : Port) (q : PortSt) : (d.setPort p q).credit = d.credit := by cases p <;> rfl
@[simp] theorem Dev.setPort_beatErrs (d : Dev) (p : Port) (q : PortSt) : (d.setPort p q).beatErrs = d.beatErrs := by cases p <;> rfl
@[simp] theorem Dev.setPort_pumps (d : Dev) (p : Port) (q : PortSt) : (d.setPort p q).pumps = d.pumps := by cases p <;> rfl
@[simp] theorem Dev.setPort_links (d : Dev) (p : Port) (q : PortSt) : (d.setPort p q).links = d.links := by cases p <;> rfl
@[simp] theorem Dev.setPort_gws (d : Dev) (p : Port) (q : PortSt) : (d.setPort p q).gws = d.gws := by cases p <;> rfl
@[simp] theorem Dev.setPort_ctl (d : Dev) (p : Port) (q : PortSt) : (d.setPort p q).ctl = d.ctl := by cases p <;> rfl
@[simp] theorem Dev.setPort_rels (d : Dev) (p : Port) (q : PortSt) : (d.setPort p q).rels = d.rels := by cases p <;> rfl
@[simp] theorem Dev.setPort_sluice (d : Dev) (p : Port) (q : PortSt) : (d.setPort p q).sluice = d.sluice := by cases p <;> rfl
@[simp] theorem Dev.setPort_pwr (d : Dev) (p : Port) (q : PortSt) : (d.setPort p q).pwr = d.pwr := by cases p <;> rfl
@[simp] theorem Dev.setPort_record (d : Dev) (p : Port) (q : PortSt) : (d.setPort p q).record = d.record := by cases p <;> rfl

@[simp] theorem Dev.take_setTake (d : Dev) (p : Port) (t : Take) : (d.setTake p t).take p = t := by
  cases p <;> rfl
theorem Dev.take_setTake_ne (d : Dev) {p q : Port} (t : Take) (h : q ≠ p) :
    (d.setTake p t).take q = d.take q := by
  cases p <;> cases q <;> first | rfl | exact absurd rfl h
@[simp] theorem Dev.take_modTake (d : Dev) (p : Port) (f : Take → Take) : (d.modTake p f).take p = f (d.take p) :=
  d.take_setTake p _
@[simp] theorem Dev.port_setPort (d : Dev) (p : Port) (q : PortSt) : (d.setPort p q).port p = q := by
  cases p <;> rfl
@[simp] theorem Dev.take_wr (d : Dev) (pg : Page) (o lo v : Nat) (p : Port) : (d.wr pg o lo v).take p = d.take p := by
  cases p <;> rfl
@[simp] theorem Dev.take_putBytes (d : Dev) (a : Nat) (bs : List Byte) (p : Port) :
    (d.putBytes a bs).take p = d.take p := by cases p <;> rfl
@[simp] theorem Dev.take_emit (d : Dev) (x : Out) (p : Port) : (d.emit x).take p = d.take p := by cases p <;> rfl
@[simp] theorem Dev.take_fresh (d : Dev) (p : Port) : d.fresh.2.take p = d.take p := by cases p <;> rfl
@[simp] theorem Dev.port_wr (d : Dev) (pg : Page) (o lo v : Nat) (p : Port) : (d.wr pg o lo v).port p = d.port p := by
  cases p <;> rfl
@[simp] theorem Dev.port_emit (d : Dev) (x : Out) (p : Port) : (d.emit x).port p = d.port p := by cases p <;> rfl
@[simp] theorem Dev.port_setTake (d : Dev) (p q : Port) (t : Take) : (d.setTake p t).port q = d.port q := by
  cases p <;> cases q <;> rfl
@[simp] theorem Dev.take_setPort (d : Dev) (p q : Port) (x : PortSt) : (d.setPort p x).take q = d.take q := by
  cases p <;> cases q <;> rfl

/-- Giving a take its own value changes nothing. -/
@[simp] theorem Dev.setTake_take (d : Dev) (p : Port) : d.setTake p (d.take p) = d := by cases p <;> rfl

end Sys2Proof.Machine
end

