-- ==== Sys2Proof/Laws/Store.lean ====
section
/-!
SUPPORT. Reading a sparse store after a write: the written key holds the value written, every other key is as it
was, and writing what is there changes nothing.
-/

namespace Sys2Proof.Machine

variable {α : Type}

/-! ### Lists of keys and values -/

theorem findKey_of_lt {b k : Nat} {l : List (Nat × α)} (h : rising b l = true) (hk : k < b) : findKey k l = none := by
  cases l with
  | nil => rfl
  | cons p t =>
    obtain ⟨k', v'⟩ := p
    simp only [rising, Bool.and_eq_true, decide_eq_true_eq] at h
    have h1 : k ≠ k' := by omega
    have h2 : k < k' := by omega
    simp [findKey, h1, h2]

theorem findKey_putKey {b k j : Nat} {v : α} {l : List (Nat × α)} (h : rising b l = true) :
    findKey j (putKey k v l) = if j = k then some v else findKey j l := by
  induction l generalizing b with
  | nil => by_cases hj : j = k <;> simp [putKey, findKey, hj]
  | cons p t ih =>
    obtain ⟨k', v'⟩ := p
    simp only [rising, Bool.and_eq_true, decide_eq_true_eq] at h
    simp only [putKey]
    split
    · rename_i hk
      by_cases hj : j = k
      · simp [findKey, hj]
      · by_cases hl : j < k
        · have h1 : j ≠ k' := by omega
          have h2 : j < k' := by omega
          simp [findKey, hj, hl, h1, h2]
        · simp [findKey, hj, hl]
    · split
      · rename_i hk; subst hk
        by_cases hj : j = k <;> simp [findKey, hj]
      · by_cases hj : j = k'
        · have : j ≠ k := by omega
          simp [findKey, hj]
          intro hc; omega
        · by_cases hl : j < k'
          · have : j ≠ k := by omega
            simp [findKey, hj, hl, this]
          · simp [findKey, hj, hl, ih h.2]

theorem findKey_dropKey {b k j : Nat} {l : List (Nat × α)} (h : rising b l = true) :
    findKey j (dropKey k l) = if j = k then none else findKey j l := by
  induction l generalizing b with
  | nil => simp [dropKey, findKey]
  | cons p t ih =>
    obtain ⟨k', v'⟩ := p
    simp only [rising, Bool.and_eq_true, decide_eq_true_eq] at h
    simp only [dropKey]
    split
    · rename_i hk; subst hk
      by_cases hj : j = k
      · simp [hj, findKey_of_lt h.2]
      · by_cases hl : j < k
        · simp [findKey, hj, hl, findKey_of_lt (rising_mono h.2 (by omega : j + 1 ≤ k + 1)) (by omega : j < j + 1)]
        · simp [findKey, hj, hl]
    · split
      · rename_i hk hl
        by_cases hj : j = k
        · have h1 : j ≠ k' := by omega
          have h2 : j < k' := by omega
          simp [findKey, h1, h2]
        · simp [hj]
      · rename_i hk hl
        by_cases hj : j = k'
        · have : j ≠ k := by omega
          simp [findKey, hj]; intro hc; omega
        · by_cases hl' : j < k'
          · simp [findKey, hj, hl']
          · simp [findKey, hj, hl', ih h.2]

theorem putKey_of_find {b k : Nat} {v : α} {l : List (Nat × α)} (h : rising b l = true)
    (hf : findKey k l = some v) : putKey k v l = l := by
  induction l generalizing b with
  | nil => simp [findKey] at hf
  | cons p t ih =>
    obtain ⟨k', v'⟩ := p
    simp only [rising, Bool.and_eq_true, decide_eq_true_eq] at h
    simp only [findKey] at hf
    simp only [putKey]
    split at hf
    · rename_i hk; subst hk; cases hf; simp
    · split at hf
      · cases hf
      · rename_i h1 h2; simp [h1, h2, ih h.2 hf]

theorem dropKey_of_none {b k : Nat} {l : List (Nat × α)} (h : rising b l = true)
    (hf : findKey k l = none) : dropKey k l = l := by
  induction l generalizing b with
  | nil => rfl
  | cons p t ih =>
    obtain ⟨k', v'⟩ := p
    simp only [rising, Bool.and_eq_true, decide_eq_true_eq] at h
    simp only [findKey] at hf
    simp only [dropKey]
    split at hf
    · cases hf
    · split at hf
      · rename_i h1 h2; simp [h1, h2]
      · rename_i h1 h2; simp [h1, h2, ih h.2 hf]

theorem findKey_ok {k : Nat} {v : α} {l : List (Nat × α)} {q : Nat × α → Bool} (h : l.all q = true)
    (hf : findKey k l = some v) : q (k, v) = true := by
  induction l with
  | nil => simp [findKey] at hf
  | cons p t ih =>
    obtain ⟨k', v'⟩ := p
    simp only [List.all_cons, Bool.and_eq_true] at h
    simp only [findKey] at hf
    split at hf
    · rename_i hk; subst hk; cases hf; exact h.1
    · split at hf
      · cases hf
      · exact ih h.2 hf

theorem findKey_filter {b k : Nat} {l : List (Nat × α)} (p : Nat → Bool) (h : rising b l = true) :
    findKey k (l.filter fun c => p c.1) = if p k then findKey k l else none := by
  induction l generalizing b with
  | nil => simp [findKey]
  | cons c t ih =>
    obtain ⟨k', v'⟩ := c
    simp only [rising, Bool.and_eq_true, decide_eq_true_eq] at h
    simp only [List.filter_cons]
    split
    · rename_i hp
      simp only [findKey]
      split
      · rename_i hk; subst hk; simp_all
      · split
        · simp
        · exact ih h.2
    · rename_i hp
      rw [ih h.2]
      by_cases hk : k = k'
      · subst hk; simp [hp]
      · by_cases hl : k < k'
        · simp [findKey, hk, hl, findKey_of_lt (rising_mono h.2 (by omega : k + 1 ≤ k' + 1)) (by omega : k < k + 1)]
        · simp [findKey, hk, hl]

/-! ### Registers -/

theorem Regs.rising_cells (r : Regs) : rising 0 r.cells = true := by
  have h := r.wf
  simp only [regsWf, Bool.and_eq_true] at h
  exact h.1

/-- A write gives its field the value, when the field can hold it, and no other field changes. -/
theorem Regs.get_set (r : Regs) (k v j : Nat) :
    (r.set k v).get j = if j = k ∧ regLegal k v = true then v else r.get j := by
  unfold Regs.set Regs.get
  split
  · rename_i h
    have hl : regLegal k v = true := by
      simp only [regOk, Bool.and_eq_true] at h; exact h.1
    rw [findKey_putKey r.rising_cells]
    by_cases hj : j = k <;> simp [hj, hl]
  · split
    · rename_i h hl
      rw [findKey_dropKey r.rising_cells]
      by_cases hj : j = k
      · subst hj
        have : v = resetVal j := by
          by_contra hne
          apply h
          simp [regOk, hl, hne]
        rw [if_pos rfl, if_pos ⟨rfl, hl⟩, this]
        rfl
      · simp [hj]
    · rename_i h hl
      have : ¬ (j = k ∧ regLegal k v = true) := fun hc => hl hc.2
      simp [this]

/-- Every register field holds a legal value or its reset value. -/
theorem Regs.get_legal (r : Regs) (k : Nat) : regLegal k (r.get k) = true ∨ r.get k = resetVal k := by
  unfold Regs.get
  cases hf : findKey k r.cells with
  | none => right; rfl
  | some v =>
    left
    have h := r.wf
    simp only [regsWf, Bool.and_eq_true] at h
    have := findKey_ok h.2 hf
    simp only [regOk, Bool.and_eq_true] at this
    simpa using this.1

/-- Writing what a field holds changes nothing. -/
theorem Regs.set_get (r : Regs) (k : Nat) : r.set k (r.get k) = r := by
  have hr := r.rising_cells
  unfold Regs.set
  cases hf : findKey k r.cells with
  | none =>
    have hg : r.get k = resetVal k := by simp [Regs.get, hf]
    have hn : ¬ regOk (k, r.get k) = true := by simp [regOk, hg]
    rw [dif_neg hn]
    split
    · cases r; simp only [Regs.mk.injEq]; exact dropKey_of_none hr hf
    · rfl
  | some v =>
    have hg : r.get k = v := by simp [Regs.get, hf]
    have h := r.wf
    simp only [regsWf, Bool.and_eq_true] at h
    have ho := findKey_ok h.2 hf
    rw [dif_pos (by rw [hg]; exact ho)]
    cases r
    simp only [Regs.mk.injEq]
    rw [hg]
    exact putKey_of_find hr hf

theorem Regs.get_resetWhere (r : Regs) (p : Nat → Bool) (k : Nat) :
    (r.resetWhere p).get k = if p k then resetVal k else r.get k := by
  unfold Regs.resetWhere Regs.get
  simp only [findKey_filter (fun j => !p j) r.rising_cells]
  by_cases h : p k <;> simp [h]

/-! ### Memory -/

theorem Mem.rising_cells (m : Mem) : rising 0 m.cells = true := by
  have h := m.wf
  simp only [memWf, Bool.and_eq_true] at h
  exact h.1

/-- A byte written inside the local space is read back, and no other byte changes. -/
theorem Mem.get_set (m : Mem) (a : Nat) (b : Byte) (c : Nat) :
    (m.set a b).get c = if c = a ∧ a < localSpace then b else m.get c := by
  unfold Mem.set Mem.get
  split
  · rename_i h
    have hl : a < localSpace := by
      simp only [cellOk, Bool.and_eq_true, decide_eq_true_eq] at h; exact h.2
    rw [findKey_putKey m.rising_cells]
    by_cases hc : c = a <;> simp [hc, hl]
  · split
    · rename_i h hl
      rw [findKey_dropKey m.rising_cells]
      by_cases hc : c = a
      · subst hc
        have : b = 0 := by
          by_contra hne
          have : b ≠ 0#8 := hne
          apply h
          simp [cellOk, hl, this]
        simp [hl, this]
      · simp [hc]
    · rename_i h hl
      have : ¬ (c = a ∧ a < localSpace) := fun hc => hl hc.2
      simp [this]

/-- Bytes outside a written range are as they were. -/
theorem Mem.get_write_out (m : Mem) (a : Nat) (bs : List Byte) (c : Nat) (h : c < a ∨ a + bs.length ≤ c) :
    (m.write a bs).get c = m.get c := by
  induction bs generalizing m a with
  | nil => rfl
  | cons b t ih =>
    simp only [List.length_cons] at h
    simp only [Mem.write]
    rw [ih _ _ (by omega), Mem.get_set, if_neg (by omega)]

/-- A written range inside the local space reads back. -/
theorem Mem.get_write_in (m : Mem) (a : Nat) (bs : List Byte) (i : Nat) (hi : i < bs.length)
    (ha : a + bs.length ≤ localSpace) : (m.write a bs).get (a + i) = bs[i] := by
  induction bs generalizing m a i with
  | nil => simp at hi
  | cons b t ih =>
    simp only [List.length_cons] at hi ha
    simp only [Mem.write]
    cases i with
    | zero =>
      rw [Mem.get_write_out _ _ _ _ (by omega), Mem.get_set, if_pos ⟨by omega, by omega⟩]
      rfl
    | succ j =>
      have := ih (m.set a b) (a + 1) j (by omega) (by omega)
      rw [show a + (j + 1) = a + 1 + j by omega, this]
      rfl

theorem Mem.get_clear (m : Mem) (a n c : Nat) :
    (m.clear a n).get c = if a ≤ c ∧ c < a + n then 0 else m.get c := by
  unfold Mem.clear Mem.get
  simp only [findKey_filter (fun k => k < a || a + n ≤ k) m.rising_cells]
  by_cases h : a ≤ c ∧ c < a + n
  · have : (decide (c < a) || decide (a + n ≤ c)) = false := by simp; omega
    simp [this, h]
  · have : (decide (c < a) || decide (a + n ≤ c)) = true := by simp; omega
    simp [this, h]

end Sys2Proof.Machine
end

