-- ==== Sys2Proof/Laws/Act.lean ====
section
/-!
SUPPORT. What a register write does to every register, and what the end of a command adds to its effect: the
counts of bytes sent and the registers that mirror others.
-/

namespace Sys2Proof.Machine

/-! ### Registers of pages -/

theorem Dev.rd_wr (d : Dev) (pg qg : Page) (o lo v o' lo' : Nat) :
    (d.wr pg o lo v).rd qg o' lo' =
      if fieldKey (qg.base + o') lo' = fieldKey (pg.base + o) lo ∧ regLegal (fieldKey (pg.base + o) lo) v = true
      then v else d.rd qg o' lo' := Regs.get_set _ _ _ _

theorem Dev.rd_wr_self (d : Dev) (pg : Page) (o lo v : Nat) (h : regLegal (fieldKey (pg.base + o) lo) v = true) :
    (d.wr pg o lo v).rd pg o lo = v := by rw [Dev.rd_wr, if_pos ⟨rfl, h⟩]

theorem Dev.rd_wr_ne (d : Dev) (pg qg : Page) (o lo v o' lo' : Nat)
    (h : fieldKey (qg.base + o') lo' ≠ fieldKey (pg.base + o) lo) :
    (d.wr pg o lo v).rd qg o' lo' = d.rd qg o' lo' := by rw [Dev.rd_wr, if_neg fun hc => h hc.1]

/-- Writing what a field holds changes nothing. -/
theorem Dev.wr_rd (d : Dev) (pg : Page) (o lo : Nat) : d.wr pg o lo (d.rd pg o lo) = d := by
  unfold Dev.wr Dev.rd; rw [Regs.set_get]

theorem Dev.wr_of_rd (d : Dev) (pg : Page) (o lo v : Nat) (h : d.rd pg o lo = v) : d.wr pg o lo v = d := by
  rw [← h, Dev.wr_rd]

@[simp] theorem Dev.rd_setTake (d : Dev) (p : Port) (t : Take) (pg : Page) (o lo : Nat) :
    (d.setTake p t).rd pg o lo = d.rd pg o lo := by cases p <;> rfl
@[simp] theorem Dev.rd_modTake (d : Dev) (p : Port) (f : Take → Take) (pg : Page) (o lo : Nat) :
    (d.modTake p f).rd pg o lo = d.rd pg o lo := by cases p <;> rfl
@[simp] theorem Dev.rd_setPort (d : Dev) (p : Port) (x : PortSt) (pg : Page) (o lo : Nat) :
    (d.setPort p x).rd pg o lo = d.rd pg o lo := by cases p <;> rfl
@[simp] theorem Dev.rd_putBytes (d : Dev) (a : Nat) (bs : List Byte) (pg : Page) (o lo : Nat) :
    (d.putBytes a bs).rd pg o lo = d.rd pg o lo := rfl
@[simp] theorem Dev.rd_emit (d : Dev) (x : Out) (pg : Page) (o lo : Nat) : (d.emit x).rd pg o lo = d.rd pg o lo := rfl
@[simp] theorem Dev.rd_fresh (d : Dev) (pg : Page) (o lo : Nat) : d.fresh.2.rd pg o lo = d.rd pg o lo := rfl
@[simp] theorem Dev.rd_setMember (d : Dev) (p : Port) (k : Nat) (m : Member) (pg : Page) (o lo : Nat) :
    (d.setMember p k m).rd pg o lo = d.rd pg o lo := by cases p <;> rfl

/-! ### Mirrors -/

/-- Registers whose values the mirrors read or hold. -/
def mirrorKeys : List Nat :=
  [fieldKey 0x1100 6, fieldKey 0x1100 7, fieldKey 0x0104 4, fieldKey 0x10104 0, fieldKey 0x10104 8, fieldKey 0x10104 16,
   fieldKey 0x10104 24, fieldKey 0xD104 1, fieldKey 0xE104 1, fieldKey 0x6104 8, fieldKey 0xF104 1, fieldKey 0x41A0 0,
   fieldKey 0x41A0 8, fieldKey 0x41A0 16, fieldKey 0x41A0 24]

/-- The mirrors agree in two devices that hold the same in the registers concerned. -/
theorem Dev.Mirrors.congr {d e : Dev} (h : d.Mirrors) (he : ∀ k ∈ mirrorKeys, e.regs.get k = d.regs.get k) :
    e.Mirrors := by
  have hk : ∀ k, k ∈ mirrorKeys → e.regs.get k = d.regs.get k := he
  simp only [mirrorKeys, List.forall_mem_cons] at he
  obtain ⟨h1, h2, h3, h4, h5, h6, h7, h8, h9, h10, h11, h12, h13, h14, h15, -⟩ := he
  simp only [Dev.Mirrors, Dev.rdBool, Dev.rd, Page.base, fieldKey] at *
  norm_num at *
  rw [h1, h2, h3, h4, h5, h6, h7, h8, h9, h10, h11, h12, h13, h14, h15]
  exact h

theorem Dev.Mirrors.wr {d : Dev} (h : d.Mirrors) (pg : Page) (o lo v : Nat)
    (hk : fieldKey (pg.base + o) lo ∉ mirrorKeys) : (d.wr pg o lo v).Mirrors := by
  refine h.congr fun k hm => ?_
  show (d.regs.set _ _).get k = _
  rw [Regs.get_set, if_neg]
  rintro ⟨rfl, -⟩
  exact hk hm

theorem Dev.Mirrors.of_regs {d e : Dev} (h : d.Mirrors) (he : e.regs = d.regs) : e.Mirrors :=
  h.congr fun k _ => by rw [he]

/-- With the mirrors in agreement, renewing them changes nothing. -/
theorem Dev.mirror_eq {d : Dev} (h : d.Mirrors) : d.mirror = d := by
  obtain ⟨h1, h2, h3, h4, h5, h6, h7⟩ := h
  unfold Dev.mirror Dev.wrBool
  simp only []
  rw [Dev.wr_of_rd _ _ _ _ _ h1, Dev.wr_of_rd _ _ _ _ _ h2, Dev.wr_of_rd _ _ _ _ _ h3, Dev.wr_of_rd _ _ _ _ _ h4,
    Dev.wr_of_rd _ _ _ _ _ h5, Dev.wr_of_rd _ _ _ _ _ h6, Dev.wr_of_rd _ _ _ _ _ h7]

/-- A command that drives nothing outward and keeps the mirrors in agreement ends with its effect alone. -/
theorem Dev.settle_eq {d : Dev} (h : d.Mirrors) (ho : d.out = []) : d.settle = d := by
  unfold Dev.settle Dev.countOut
  rw [ho]
  exact Dev.mirror_eq h

/-- Counting an output changes registers only. -/
theorem Dev.countOne_regs (d : Dev) (o : Out) : ∃ r, d.countOne o = { d with regs := r } := by
  have hb : ∀ n p, ∃ r, d.bump (.hp p) 0x048 n = { d with regs := r } := by
    intro n p
    unfold Dev.bump
    split
    · exact ⟨d.regs, rfl⟩
    · exact ⟨_, rfl⟩
  cases o <;> first | exact hb _ _ | exact ⟨d.regs, rfl⟩

/-- The end of a command changes registers only. -/
theorem Dev.settle_regs (d : Dev) : ∃ r, d.settle = { d with regs := r } := by
  have hc : ∀ (l : List Out) (e : Dev), ∃ r, l.foldl Dev.countOne e = { e with regs := r } := by
    intro l
    induction l with
    | nil => intro e; exact ⟨e.regs, rfl⟩
    | cons o t ih =>
      intro e
      obtain ⟨r, hr⟩ := e.countOne_regs o
      obtain ⟨r', hr'⟩ := ih { e with regs := r }
      exact ⟨r', by rw [List.foldl_cons, hr]; exact hr'⟩
  obtain ⟨r, hr⟩ := hc d.out d
  unfold Dev.settle Dev.countOut
  rw [hr]
  exact ⟨_, rfl⟩

@[simp] theorem Dev.settle_mem (d : Dev) : d.settle.mem = d.mem := by obtain ⟨r, h⟩ := d.settle_regs; rw [h]
@[simp] theorem Dev.settle_free (d : Dev) : d.settle.free = d.free := by obtain ⟨r, h⟩ := d.settle_regs; rw [h]
@[simp] theorem Dev.settle_resp (d : Dev) : d.settle.resp = d.resp := by obtain ⟨r, h⟩ := d.settle_regs; rw [h]
@[simp] theorem Dev.settle_out (d : Dev) : d.settle.out = d.out := by obtain ⟨r, h⟩ := d.settle_regs; rw [h]
@[simp] theorem Dev.settle_takeA (d : Dev) : d.settle.takeA = d.takeA := by obtain ⟨r, h⟩ := d.settle_regs; rw [h]
@[simp] theorem Dev.settle_takeB (d : Dev) : d.settle.takeB = d.takeB := by obtain ⟨r, h⟩ := d.settle_regs; rw [h]
@[simp] theorem Dev.settle_tiles (d : Dev) : d.settle.tiles = d.tiles := by obtain ⟨r, h⟩ := d.settle_regs; rw [h]
@[simp] theorem Dev.settle_accs (d : Dev) : d.settle.accs = d.accs := by obtain ⟨r, h⟩ := d.settle_regs; rw [h]
@[simp] theorem Dev.settle_groups (d : Dev) : d.settle.groups = d.groups := by obtain ⟨r, h⟩ := d.settle_regs; rw [h]
@[simp] theorem Dev.settle_ent (d : Dev) : d.settle.ent = d.ent := by obtain ⟨r, h⟩ := d.settle_regs; rw [h]
@[simp] theorem Dev.settle_reelA (d : Dev) : d.settle.reelA = d.reelA := by obtain ⟨r, h⟩ := d.settle_regs; rw [h]
@[simp] theorem Dev.settle_reelB (d : Dev) : d.settle.reelB = d.reelB := by obtain ⟨r, h⟩ := d.settle_regs; rw [h]
@[simp] theorem Dev.settle_banks (d : Dev) : d.settle.banks = d.banks := by obtain ⟨r, h⟩ := d.settle_regs; rw [h]
@[simp] theorem Dev.settle_arbs (d : Dev) : d.settle.arbs = d.arbs := by obtain ⟨r, h⟩ := d.settle_regs; rw [h]
@[simp] theorem Dev.settle_pumps (d : Dev) : d.settle.pumps = d.pumps := by obtain ⟨r, h⟩ := d.settle_regs; rw [h]
@[simp] theorem Dev.settle_links (d : Dev) : d.settle.links = d.links := by obtain ⟨r, h⟩ := d.settle_regs; rw [h]
@[simp] theorem Dev.settle_gws (d : Dev) : d.settle.gws = d.gws := by obtain ⟨r, h⟩ := d.settle_regs; rw [h]
@[simp] theorem Dev.settle_portA (d : Dev) : d.settle.portA = d.portA := by obtain ⟨r, h⟩ := d.settle_regs; rw [h]
@[simp] theorem Dev.settle_portB (d : Dev) : d.settle.portB = d.portB := by obtain ⟨r, h⟩ := d.settle_regs; rw [h]
@[simp] theorem Dev.settle_ctl (d : Dev) : d.settle.ctl = d.ctl := by obtain ⟨r, h⟩ := d.settle_regs; rw [h]
@[simp] theorem Dev.settle_rels (d : Dev) : d.settle.rels = d.rels := by obtain ⟨r, h⟩ := d.settle_regs; rw [h]
@[simp] theorem Dev.settle_sluice (d : Dev) : d.settle.sluice = d.sluice := by obtain ⟨r, h⟩ := d.settle_regs; rw [h]
@[simp] theorem Dev.settle_pwr (d : Dev) : d.settle.pwr = d.pwr := by obtain ⟨r, h⟩ := d.settle_regs; rw [h]
@[simp] theorem Dev.settle_record (d : Dev) : d.settle.record = d.record := by obtain ⟨r, h⟩ := d.settle_regs; rw [h]
@[simp] theorem Dev.take_settle (d : Dev) (p : Port) : d.settle.take p = d.take p := by
  cases p <;> simp [Dev.take]
@[simp] theorem Dev.port_settle (d : Dev) (p : Port) : d.settle.port p = d.port p := by
  cases p <;> simp [Dev.port]
@[simp] theorem Dev.member_settle (d : Dev) (p : Port) (k : Nat) : d.settle.member p k = d.member p k := by
  simp [Dev.member]

/-- Registers the end of a command may change: the mirrors and HP_TX_BYTES of each port. -/
def settleKeys : List Nat :=
  [fieldKey 0x1100 6, fieldKey 0x1100 7, fieldKey 0x0104 4, fieldKey 0x10104 0, fieldKey 0x10104 8, fieldKey 0x10104 16,
   fieldKey 0x10104 24, fieldKey 0x100048 0, fieldKey 0x101048 0]

theorem Dev.get_wr_ne (d : Dev) (pg : Page) (o lo v k : Nat) (h : k ≠ fieldKey (pg.base + o) lo) :
    (d.wr pg o lo v).regs.get k = d.regs.get k := by
  show (d.regs.set _ _).get k = _
  rw [Regs.get_set, if_neg fun hc => h hc.1]

theorem Dev.get_mirror (d : Dev) (k : Nat) (h : k ∉ settleKeys) : d.mirror.regs.get k = d.regs.get k := by
  simp only [settleKeys, List.mem_cons, not_or] at h
  obtain ⟨h1, h2, h3, h4, h5, h6, h7, -⟩ := h
  unfold Dev.mirror Dev.wrBool
  simp only []
  rw [Dev.get_wr_ne _ _ _ _ _ _ h7, Dev.get_wr_ne _ _ _ _ _ _ h6, Dev.get_wr_ne _ _ _ _ _ _ h5,
    Dev.get_wr_ne _ _ _ _ _ _ h4, Dev.get_wr_ne _ _ _ _ _ _ h3, Dev.get_wr_ne _ _ _ _ _ _ h2,
    Dev.get_wr_ne _ _ _ _ _ _ h1]

theorem Dev.get_bump_ne (d : Dev) (pg : Page) (o n k : Nat) (h : k ≠ fieldKey (pg.base + o) 0) :
    (d.bump pg o n).regs.get k = d.regs.get k := by
  unfold Dev.bump
  split
  · rfl
  · exact d.get_wr_ne _ _ _ _ _ h

theorem Dev.get_settle (d : Dev) (k : Nat) (h : k ∉ settleKeys) : d.settle.regs.get k = d.regs.get k := by
  unfold Dev.settle
  rw [Dev.get_mirror _ _ h]
  simp only [settleKeys, List.mem_cons, not_or] at h
  obtain ⟨-, -, -, -, -, -, -, ha, hb, -⟩ := h
  have hp : ∀ (e : Dev) (o : Out), (e.countOne o).regs.get k = e.regs.get k := by
    intro e o
    cases o
    case msix p v a x => cases p <;> exact e.get_bump_ne _ _ _ _ (by assumption)
    case hostWrite p a bs => cases p <;> exact e.get_bump_ne _ _ _ _ (by assumption)
    all_goals rfl
  unfold Dev.countOut
  generalize d.out = l
  induction l generalizing d with
  | nil => rfl
  | cons o t ih => rw [List.foldl_cons, ih, hp]

/-- A register outside those of `settleKeys`, read after the end of a command. -/
theorem Dev.rd_settle (d : Dev) (pg : Page) (o lo : Nat) (h : fieldKey (pg.base + o) lo ∉ settleKeys) :
    d.settle.rd pg o lo = d.rd pg o lo := d.get_settle _ h

/-- The outcome of a command, by the device its meaning makes of the quiet one. -/
theorem State.act_eq (f : Dev → Dev) (s : State) : s.act f = .next { s with dev := (f s.dev.quiet).settle } := rfl

/-- A command that drives nothing outward and keeps the mirrors ends with its effect alone. -/
theorem State.act_quiet (f : Dev → Dev) (s : State) (e : Dev) (hf : f s.dev.quiet = e) (ho : e.out = [])
    (hm : e.Mirrors) : s.act f = .next { s with dev := e } := by
  rw [State.act_eq, hf, Dev.settle_eq hm ho]

theorem Dev.Mirrors.quiet {d : Dev} (h : d.Mirrors) : d.quiet.Mirrors := h

@[simp] theorem Dev.rd_quiet (d : Dev) (pg : Page) (o lo : Nat) : d.quiet.rd pg o lo = d.rd pg o lo := rfl
@[simp] theorem Dev.take_quiet (d : Dev) (p : Port) : d.quiet.take p = d.take p := by cases p <;> rfl
@[simp] theorem Dev.member_quiet (d : Dev) (p : Port) (k : Nat) : d.quiet.member p k = d.member p k := by
  cases p <;> rfl
@[simp] theorem Dev.ready_quiet (d : Dev) (p : Port) (k : Nat) : d.quiet.ready p k = d.ready p k := by
  cases p <;> rfl

end Sys2Proof.Machine
end

