-- ==== Sys2Proof/Laws/Crypto.lean ====
section
/-!
SUPPORT. How long the output of the ciphers is.
-/

namespace Sys2Proof.Machine

theorem length_xorBytes (a b : List Nat) : (xorBytes a b).length = min a.length b.length := by
  simp [xorBytes]

/-- The key schedule adds one word of four bytes at a time. -/
theorem aesExpand_words (n i : Nat) (ws : List (List Nat)) (rcon : Nat) (hw : ∀ w ∈ ws, w.length = 4)
    (hl : 8 ≤ ws.length) :
    (∀ w ∈ aesExpand n i ws rcon, w.length = 4) ∧ (aesExpand n i ws rcon).length = ws.length + n := by
  induction n generalizing i ws rcon with
  | zero => exact ⟨hw, rfl⟩
  | succ n ih =>
    match ws, hl, hw with
    | t :: ws', hl, hw =>
      obtain ⟨a, b, c, d, rfl⟩ : ∃ a b c d, t = [a, b, c, d] := by
        have h := hw t (by simp)
        match t, h with
        | [a, b, c, d], _ => exact ⟨a, b, c, d, rfl⟩
      simp only [List.length_cons] at hl
      have h7 : (([a, b, c, d] :: ws').getD 7 []).length = 4 := by
        have hlt : 7 < ([a, b, c, d] :: ws').length := by simp only [List.length_cons]; omega
        rw [List.getD_eq_getElem _ _ hlt]
        exact hw _ (List.getElem_mem hlt)
      unfold aesExpand
      refine (ih _ _ _ ?_ (by simp only [List.length_cons]; omega)).imp id fun h => by
        rw [h]; simp only [List.length_cons]; omega
      intro w hwm
      rcases List.mem_cons.1 hwm with rfl | hwm
      · rw [length_xorBytes, h7]
        split
        · simp
        · split <;> simp
      · exact hw w hwm

theorem chunk4_words (n : Nat) (l : List Nat) (h : l.length = 4 * n) :
    (∀ w ∈ chunk4 n l, w.length = 4) ∧ (chunk4 n l).length = n := by
  induction n generalizing l with
  | zero => simp [chunk4]
  | succ n ih =>
    have h' := ih (l.drop 4) (by simp; omega)
    simp only [chunk4, List.mem_cons, forall_eq_or_imp, List.length_cons, List.length_take]
    exact ⟨⟨by omega, h'.1⟩, by omega⟩

theorem length_flatten_words (ws : List (List Nat)) (h : ∀ w ∈ ws, w.length = 4) : ws.flatten.length = 4 * ws.length := by
  induction ws with
  | nil => rfl
  | cons w t ih =>
    have h1 := h w (by simp)
    have h2 := ih fun x hx => h x (by simp [hx])
    simp only [List.flatten_cons, List.length_append, List.length_cons]
    omega

/-- A key of 32 bytes gives fifteen round keys of sixteen. -/
theorem aesKeys_lengths (key : List Nat) (h : key.length = 32) : ∀ k ∈ aesKeys key, k.length = 16 := by
  have hc := chunk4_words 8 key h
  have he := aesExpand_words 52 8 (chunk4 8 key).reverse 1 (fun w hw => hc.1 w (List.mem_reverse.1 hw))
    (by simp [hc.2])
  intro k hk
  simp only [aesKeys, List.mem_map, List.mem_range] at hk
  obtain ⟨r, hr, rfl⟩ := hk
  rw [length_flatten_words]
  · simp only [List.length_take, List.length_drop, List.length_reverse, he.2, hc.2]
    omega
  · intro w hw
    exact he.1 w (List.mem_reverse.1 (List.mem_of_mem_drop (List.mem_of_mem_take hw)))

theorem length_aesRounds (ks : List (List Nat)) (s : List Nat) (hne : ks ≠ []) (h : ∀ k ∈ ks, k.length = 16) :
    (aesRounds ks s).length = 16 := by
  induction ks generalizing s with
  | nil => exact absurd rfl hne
  | cons k ks ih =>
    cases ks with
    | nil => simp [aesRounds, length_xorBytes, shiftRows, h k (by simp)]
    | cons k' ks => exact ih _ (by simp) fun x hx => h x (by simp [hx])

theorem length_aesBlock (key blk : List Nat) (h : key.length = 32) : (aesBlock (aesKeys key) blk).length = 16 := by
  have hk := aesKeys_lengths key h
  have hl : (aesKeys key).length = 15 := by simp [aesKeys]
  unfold aesBlock
  split
  · rename_i k0 rest he
    rw [he] at hl hk
    refine length_aesRounds _ _ (fun hn => ?_) fun x hx => hk x (by simp [hx])
    rw [hn] at hl
    simp at hl
  · rename_i he
    rw [he] at hl
    simp at hl

theorem length_ctrBlocks (key : List Nat) (n v : Nat) (h : key.length = 32) :
    (ctrBlocks (aesKeys key) n v).length = 16 * n := by
  induction n generalizing v with
  | zero => rfl
  | succ n ih => simp only [ctrBlocks, List.length_append, length_aesBlock _ _ h, ih]; omega

/-- An instance with a key delivers as many bytes as are asked for, and keeps a key. -/
theorem drbgGenerate_length (d : Drbg) (n : Nat) (h : d.key.length = 32) :
    (drbgGenerate d n).1.length = n ∧ (drbgGenerate d n).2.key.length = 32 := by
  constructor
  · simp only [drbgGenerate, List.length_take, length_ctrBlocks _ _ _ h]
    omega
  · simp [drbgGenerate, drbgUpdate, length_xorBytes, length_ctrBlocks _ _ _ h]

end Sys2Proof.Machine
end

