-- ==== Sys2Proof/Laws/Pages.lean ====
section
/-!
SUPPORT. Where the pages of BAR0 lie: the page of an offset inside a page's window.
-/

namespace Sys2Proof.Machine

theorem pageOf_hp (p o : Nat) (hv : p < 2) (ho : o < 0x1000) :
    pageOf ((Page.hp p).base + o) = some (.hp p, o) := by
  unfold pageOf Page.base
  dsimp only
  iterate 2 refine (if_neg (by omega)).trans ?_
  refine (if_pos (by omega)).trans ?_
  simp only [Option.some.injEq, Prod.mk.injEq, Page.hp.injEq]
  omega

theorem pageOf_tile (s o : Nat) (hv : s < 144) (ho : o < 0x4000) :
    pageOf ((Page.tile s).base + o) = some (.tile s, o) := by
  unfold pageOf Page.base
  dsimp only
  iterate 6 refine (if_neg (by omega)).trans ?_
  refine (if_pos (by omega)).trans ?_
  simp only [Option.some.injEq, Prod.mk.injEq, Page.tile.injEq]
  omega

theorem pageOf_me (q o : Nat) (hv : q < 4) (ho : o < 0x10000) :
    pageOf ((Page.me q).base + o) = some (.me q, o) := by
  unfold pageOf Page.base
  dsimp only
  iterate 8 refine (if_neg (by omega)).trans ?_
  refine (if_pos (by omega)).trans ?_
  simp only [Option.some.injEq, Prod.mk.injEq, Page.me.injEq]
  omega

theorem pageOf_ve (e o : Nat) (hv : e < 16) (ho : o < 0x4000) :
    pageOf ((Page.ve e).base + o) = some (.ve e, o) := by
  unfold pageOf Page.base
  dsimp only
  iterate 10 refine (if_neg (by omega)).trans ?_
  refine (if_pos (by omega)).trans ?_
  simp only [Option.some.injEq, Prod.mk.injEq, Page.ve.injEq]
  omega

theorem pageOf_pump (n o : Nat) (hv : n < 32) (ho : o < 0x4000) :
    pageOf ((Page.pump n).base + o) = some (.pump n, o) := by
  unfold pageOf Page.base
  dsimp only
  iterate 14 refine (if_neg (by omega)).trans ?_
  refine (if_pos (by omega)).trans ?_
  simp only [Option.some.injEq, Prod.mk.injEq, Page.pump.injEq]
  omega

theorem pageOf_well (w o : Nat) (hv : w < 65536) (ho : o < 0x20) :
    pageOf ((Page.well w).base + o) = some (.well w, o) := by
  unfold pageOf Page.base
  dsimp only
  iterate 17 refine (if_neg (by omega)).trans ?_
  refine (if_pos (by omega)).trans ?_
  simp only [Option.some.injEq, Prod.mk.injEq, Page.well.injEq]
  omega

theorem pageOf_cring (i o : Nat) (hv : i < 4096) (ho : o < 0x20) :
    pageOf ((Page.cring i).base + o) = some (.cring i, o) := by
  unfold pageOf Page.base
  dsimp only
  iterate 20 refine (if_neg (by omega)).trans ?_
  refine (if_pos (by omega)).trans ?_
  simp only [Option.some.injEq, Prod.mk.injEq, Page.cring.injEq]
  omega

theorem pageOf_sem (s o : Nat) (hv : s < 4096) (ho : o < 0x4) :
    pageOf ((Page.sem s).base + o) = some (.sem s, o) := by
  unfold pageOf Page.base
  dsimp only
  iterate 21 refine (if_neg (by omega)).trans ?_
  refine (if_pos (by omega)).trans ?_
  simp only [Option.some.injEq, Prod.mk.injEq, Page.sem.injEq]
  omega

theorem pageOf_link (i o : Nat) (hv : i < 64) (ho : o < 0x1000) :
    pageOf ((Page.link i).base + o) = some (.link i, o) := by
  unfold pageOf Page.base
  dsimp only
  iterate 23 refine (if_neg (by omega)).trans ?_
  refine (if_pos (by omega)).trans ?_
  simp only [Option.some.injEq, Prod.mk.injEq, Page.link.injEq]
  omega

theorem pageOf_gw (q o : Nat) (hv : q < 4) (ho : o < 0x20000) :
    pageOf ((Page.gw q).base + o) = some (.gw q, o) := by
  unfold pageOf Page.base
  dsimp only
  iterate 24 refine (if_neg (by omega)).trans ?_
  refine (if_pos (by omega)).trans ?_
  simp only [Option.some.injEq, Prod.mk.injEq, Page.gw.injEq]
  omega

theorem pageOf_route (x o : Nat) (hv : x < 1024) (ho : o < 0x8) :
    pageOf ((Page.route x).base + o) = some (.route x, o) := by
  unfold pageOf Page.base
  dsimp only
  iterate 26 refine (if_neg (by omega)).trans ?_
  refine (if_pos (by omega)).trans ?_
  simp only [Option.some.injEq, Prod.mk.injEq, Page.route.injEq]
  omega

theorem pageOf_cage (k o : Nat) (hv : k < 16) (ho : o < 0x1000) :
    pageOf ((Page.cage k).base + o) = some (.cage k, o) := by
  unfold pageOf Page.base
  dsimp only
  iterate 28 refine (if_neg (by omega)).trans ?_
  refine (if_pos (by omega)).trans ?_
  simp only [Option.some.injEq, Prod.mk.injEq, Page.cage.injEq]
  omega

theorem pageOf_router (c r o : Nat) (hc : c < 16) (hr : r < 11) (ho : o < 0x1000) :
    pageOf ((Page.router c r).base + o) = some (.router c r, o) := by
  unfold pageOf Page.base
  dsimp only
  iterate 4 refine (if_neg (by omega)).trans ?_
  refine (if_pos (by omega)).trans ?_
  refine (if_pos (by omega)).trans ?_
  simp only [Option.some.injEq, Prod.mk.injEq, Page.router.injEq]
  omega

theorem pageOf_slot (c r o : Nat) (hc : c < 16) (hr : r < 11) (ho : o < 0x1000) :
    pageOf ((Page.slot c r).base + o) = some (.slot c r, o) := by
  unfold pageOf Page.base
  dsimp only
  iterate 4 refine (if_neg (by omega)).trans ?_
  refine (if_pos (by omega)).trans ?_
  refine (if_neg (by omega)).trans ?_
  simp only [Option.some.injEq, Prod.mk.injEq, Page.slot.injEq]
  omega

theorem pageOf_vc (c o : Nat) (hc : c < 16) (ho : o < 0x8000 ∨ 0xC000 ≤ o ∧ o < 0x10000) :
    pageOf ((Page.vc c).base + o) = some (.vc c, o) := by
  unfold pageOf Page.base
  dsimp only
  iterate 12 refine (if_neg (by omega)).trans ?_
  refine (if_pos (by omega)).trans ?_
  refine (if_neg (by simp; omega)).trans ?_
  simp only [Option.some.injEq, Prod.mk.injEq, Page.vc.injEq]
  omega

end Sys2Proof.Machine
end

