-- ==== Sys2Proof/Laws/Script.lean ====
section
/-!
SUPPORT. Members of a take: what a member that may execute its next instruction is known to be, what completing an
instruction does, and when an instruction's command runs its effect.
-/

namespace Sys2Proof.Machine

/-- A member that may execute its next instruction is a member, and neither ended, arrived nor waiting. -/
theorem Dev.ready_member {d : Dev} {p : Port} {k : Nat} {m : Member} {w : Nat} (h : d.ready p k = some (m, w)) :
    d.member p k = some m ∧ m.ended = false ∧ m.arrived = none ∧ m.sweep = none ∧ m.waiting = false ∧
      m.pc < m.len ∧ w = d.scriptWord (d.take p) m m.pc := by
  unfold Dev.ready at h
  split at h
  · split at h
    · rename_i m' hm
      split at h
      · cases h
      · rename_i hc
        cases h
        simp only [Bool.or_eq_true, not_or, decide_eq_true_eq, Bool.not_eq_true, Option.isSome_eq_false_iff,
          Option.isNone_iff_eq_none] at hc
        exact ⟨hm, hc.1.1.1.1, hc.1.1.1.2, hc.1.1.2, hc.1.2, by omega, rfl⟩
    · cases h
  · cases h

/-- A member that arrived, ended, sweeps or waits executes nothing. -/
theorem Dev.ready_none {d : Dev} {p : Port} {k : Nat} {m : Member} (h : d.member p k = some m)
    (hb : m.ended = true ∨ m.arrived.isSome = true ∨ m.sweep.isSome = true ∨ m.waiting = true) :
    d.ready p k = none := by
  unfold Dev.ready
  unfold Dev.member at h
  split
  · rw [h]; dsimp only
    rw [if_pos]
    rcases hb with hb | hb | hb | hb <;> simp [hb]
  · rfl

theorem setAt_getElem? {α : Type} (l : List α) (k : Nat) (a b : α) (h : l[k]? = some a) : (setAt l k b)[k]? = some b := by
  induction l generalizing k with
  | nil => simp at h
  | cons x t ih => cases k <;> simp_all [setAt]

theorem setAt_getElem?_ne {α : Type} (l : List α) (k j : Nat) (b : α) (h : j ≠ k) : (setAt l k b)[j]? = l[j]? := by
  induction l generalizing k j with
  | nil => rfl
  | cons x t ih =>
    cases k <;> cases j <;> simp_all [setAt]

theorem setAt_setAt {α : Type} (l : List α) (k : Nat) (a b : α) : setAt (setAt l k a) k b = setAt l k b := by
  induction l generalizing k with
  | nil => rfl
  | cons x t ih => cases k <;> simp [setAt, ih]

theorem Dev.member_setMember {d : Dev} {p : Port} {k : Nat} {m m' : Member} (h : d.member p k = some m) :
    (d.setMember p k m').member p k = some m' := by
  unfold Dev.setMember Dev.member at *
  simp only [Dev.take_modTake]
  exact setAt_getElem? _ _ _ _ h

theorem Dev.member_setMember_ne (d : Dev) (p : Port) {k j : Nat} (m : Member) (h : j ≠ k) :
    (d.setMember p k m).member p j = d.member p j := by
  unfold Dev.setMember Dev.member
  simp only [Dev.take_modTake]
  exact setAt_getElem?_ne _ _ _ _ h

theorem Dev.setMember_setMember (d : Dev) (p : Port) (k : Nat) (m m' : Member) :
    (d.setMember p k m).setMember p k m' = d.setMember p k m' := by
  cases p <;> simp [Dev.setMember, Dev.modTake, Dev.setTake, Dev.take, setAt_setAt]

@[simp] theorem Dev.setMember_out (d : Dev) (p : Port) (k : Nat) (m : Member) : (d.setMember p k m).out = d.out := by
  cases p <;> rfl
@[simp] theorem Dev.setMember_regs (d : Dev) (p : Port) (k : Nat) (m : Member) : (d.setMember p k m).regs = d.regs := by
  cases p <;> rfl
@[simp] theorem Dev.setMember_mem (d : Dev) (p : Port) (k : Nat) (m : Member) : (d.setMember p k m).mem = d.mem := by
  cases p <;> rfl
@[simp] theorem Dev.modTake_out (d : Dev) (p : Port) (f : Take → Take) : (d.modTake p f).out = d.out := by
  cases p <;> rfl
@[simp] theorem Dev.modTake_regs (d : Dev) (p : Port) (f : Take → Take) : (d.modTake p f).regs = d.regs := by
  cases p <;> rfl
@[simp] theorem Dev.modTake_mem (d : Dev) (p : Port) (f : Take → Take) : (d.modTake p f).mem = d.mem := by
  cases p <;> rfl
@[simp] theorem Dev.member_wr (d : Dev) (pg : Page) (o lo v : Nat) (p : Port) (k : Nat) :
    (d.wr pg o lo v).member p k = d.member p k := by cases p <;> rfl
@[simp] theorem Dev.member_fresh (d : Dev) (p : Port) (k : Nat) : d.fresh.2.member p k = d.member p k := by
  cases p <;> rfl
@[simp] theorem Dev.member_putBytes (d : Dev) (a : Nat) (bs : List Byte) (p : Port) (k : Nat) :
    (d.putBytes a bs).member p k = d.member p k := by cases p <;> rfl

theorem Dev.Mirrors.setMember {d : Dev} (h : d.Mirrors) (p : Port) (k : Nat) (m : Member) : (d.setMember p k m).Mirrors :=
  h.of_regs (d.setMember_regs p k m)
theorem Dev.Mirrors.modTake {d : Dev} (h : d.Mirrors) (p : Port) (f : Take → Take) : (d.modTake p f).Mirrors :=
  h.of_regs (d.modTake_regs p f)

/-- A register of a page beyond the port pages is none of the mirroring ones. -/
theorem high_not_mirror {a lo : Nat} (h : 0x20000 ≤ a) : fieldKey a lo ∉ mirrorKeys := by
  simp only [mirrorKeys, fieldKey, List.mem_cons, List.not_mem_nil, or_false, not_or]
  omega

theorem Dev.Mirrors.wr_high {d : Dev} (h : d.Mirrors) (pg : Page) (o lo v : Nat) (hp : 0x20000 ≤ pg.base) :
    (d.wr pg o lo v).Mirrors := h.wr _ _ _ _ (high_not_mirror (by omega))

theorem Dev.Mirrors.bump_high {d : Dev} (h : d.Mirrors) (pg : Page) (o n : Nat) (hp : 0x20000 ≤ pg.base) :
    (d.bump pg o n).Mirrors := by
  unfold Dev.bump
  split
  · exact h
  · exact h.wr_high _ _ _ _ hp

/-- Counting an instruction of a vector engine changes its two counters only. -/
theorem Dev.Mirrors.countInstr {d : Dev} (h : d.Mirrors) (pg : Page) (n : Nat) : (d.countInstr pg n).Mirrors := by
  unfold Dev.countInstr
  split
  · have hb : ∀ e, 0x20000 ≤ (Page.ve e).base := fun e => by simp only [Page.base]; omega
    exact (h.bump_high _ _ _ (hb _)).bump_high _ _ _ (hb _)
  · exact h

theorem Dev.bump_regs (d : Dev) (pg : Page) (o n : Nat) : ∃ r, d.bump pg o n = { d with regs := r } := by
  unfold Dev.bump
  split
  · exact ⟨d.regs, rfl⟩
  · exact ⟨_, rfl⟩

theorem Dev.countInstr_regs (d : Dev) (pg : Page) (n : Nat) : ∃ r, d.countInstr pg n = { d with regs := r } := by
  unfold Dev.countInstr
  split
  · rename_i e
    obtain ⟨r, hr⟩ := d.bump_regs (.ve e) 0x040 1
    rw [hr]
    exact Dev.bump_regs _ _ _ _
  · exact ⟨d.regs, rfl⟩

@[simp] theorem Dev.countInstr_out (d : Dev) (pg : Page) (n : Nat) : (d.countInstr pg n).out = d.out := by
  obtain ⟨r, hr⟩ := d.countInstr_regs pg n; rw [hr]
@[simp] theorem Dev.countInstr_mem (d : Dev) (pg : Page) (n : Nat) : (d.countInstr pg n).mem = d.mem := by
  obtain ⟨r, hr⟩ := d.countInstr_regs pg n; rw [hr]
@[simp] theorem Dev.take_countInstr (d : Dev) (pg : Page) (n : Nat) (p : Port) :
    (d.countInstr pg n).take p = d.take p := by
  obtain ⟨r, hr⟩ := d.countInstr_regs pg n; rw [hr]; cases p <;> rfl
@[simp] theorem Dev.member_countInstr (d : Dev) (pg : Page) (n : Nat) (p : Port) (k : Nat) :
    (d.countInstr pg n).member p k = d.member p k := by
  unfold Dev.member; rw [Dev.take_countInstr]
theorem Dev.countInstr_id (d : Dev) (pg : Page) (n : Nat) (h : pg.isVe = false) : d.countInstr pg n = d := by
  cases pg <;> first | rfl | simp [Page.isVe] at h

/-- What completing a member's instruction does. -/
theorem Dev.finish_eq {d : Dev} {p : Port} {k : Nat} {m : Member} (n el : Nat) (h : d.member p k = some m) :
    d.finish p k n el = (d.setMember p k (m.next n)).countInstr m.page el := by
  unfold Dev.finish; rw [h]

/-- With nothing undefined, the next read finds what was written. -/
theorem Dev.spoil_calm {d : Dev} {p : Port} (h : d.calm p = true) : d.spoil p = d := by unfold Dev.spoil; rw [if_pos h]

theorem Dev.calm_quiet (d : Dev) (p : Port) : d.quiet.calm p = d.calm p := by cases p <;> rfl

/-- An instruction's command runs its effect on the member's word. -/
theorem Dev.onInstr_eq {d : Dev} {p : Port} {k : Nat} {m : Member} {w op : Nat} {who : Page → Bool}
    {f : Member → Nat → Dev → Dev} (h : d.due p k m w) (ho : opcodeOf w = op) (hw : who m.page = true) :
    d.quiet.onInstr p k op who f = f m w d.quiet := by
  unfold Dev.onInstr
  rw [Dev.ready_quiet, h.1, Dev.spoil_calm (by rw [Dev.calm_quiet]; exact h.2)]
  simp [ho, hw]

/-- Where the member may not execute, or another opcode or block is there, the command changes nothing. -/
theorem Dev.onInstr_none {d : Dev} {p : Port} {k op : Nat} {who : Page → Bool} {f : Member → Nat → Dev → Dev}
    (h : ∀ m w, d.ready p k = some (m, w) → opcodeOf w ≠ op ∨ who m.page = false) : d.onInstr p k op who f = d := by
  unfold Dev.onInstr
  split
  · rename_i m w hr
    rcases h m w hr with h | h <;> simp [h]
  · rfl

end Sys2Proof.Machine
end

