-- ==== Sys2Proof/WellFormed.lean ====
section
/-!
DEFINITION. Well-formed commands: every unit that a command names exists, and every value it carries fits its field.
A command that is not well-formed is no command of the block; most leave the state as it is.
-/

namespace Sys2Proof

open Machine

def columnOk (c : Nat) : Bool := decide (c < 16)
/-- A router of the mesh (R10). -/
def nodeOk (c r : Nat) : Bool := columnOk c && decide (r < 11)
/-- A bank of a column (R218). -/
def bankOk (c b : Nat) : Bool := columnOk c && decide (b < banksOf c)
def vaultOk (v : Nat) : Bool := decide (v < 512)
def layerOk (n : Nat) : Bool := decide (n < 4)
def linkOk (i : Nat) : Bool := decide (i < 64)
/-- A flit of 256 bytes (R298). -/
def flitOk (f : Nat) : Bool := decide (f < 2 ^ 2048)
def engineOk (n : Nat) : Bool := decide (n < 32)
def wellOk (w : Nat) : Bool := decide (w < 65536)
def cringOk (i : Nat) : Bool := decide (i < 4096)
def ringOk (i : Nat) : Bool := decide (i < 32)
def cellNoOk (c : Nat) : Bool := decide (c < 8)
/-- A matrix engine, a link gateway. -/
def quadOk (q : Nat) : Bool := decide (q < 4)
def cageOk (k : Nat) : Bool := decide (k < 16)
/-- An arbiter page and a port of it (R266). -/
def arbOk (i q : Nat) : Bool := decide (i < 68) && decide (q < if i < 64 then 8 else 1)
/-- A logical clapper identifier. -/
def idOk (n : Nat) : Bool := decide (n < 64)
def wordOk (v : Nat) : Bool := decide (v < 2 ^ 32)
/-- A mailbox command of 32 bytes (R210). -/
def mailOk (m : Nat) : Bool := decide (m < 2 ^ 256)
def countOk (n : Nat) : Bool := decide (1 ≤ n ∧ n ≤ 16)
/-- An access of BAR0 or BAR4: it lies within the 64 MiB or the 1 MiB (R322). -/
def accessOk (bar4 : Bool) (a n : Nat) : Bool := decide (0 < n) && decide (a + n ≤ if bar4 then 2 ^ 20 else 2 ^ 26)
/-- An access within a 64-byte line of the local space, its data as long as it says. -/
def lineOk (a n : Nat) (data : Option (List Byte)) : Bool :=
  decide (0 < n ∧ a % 64 + n ≤ 64 ∧ a < 2 ^ 38) && (data.isNone || data.map List.length == some n)
/-- Instances of a block type (R437). -/
def blockOk (ty inst : Nat) : Bool :=
  match ty with
  | 0x0001 => decide (inst ≤ 4) || inst / 16 == 1 && inst % 16 < 2 || inst / 16 == 2 && inst % 16 < 2 ||
      inst / 16 == 3 && inst % 16 < 2 || inst == 0x40
  | 0x0002 | 0x0090 | 0x00C0 => inst == 0
  | 0x0003 => decide (inst ≤ 2)
  | 0x0010 => decide (inst < 2)
  | 0x0020 => nodeOk (inst / 16) (inst % 16)
  | 0x0030 => decide (inst < 144)
  | 0x0040 => decide (inst < 4)
  | 0x0050 | 0x0060 => decide (inst < 16)
  | 0x0070 => decide (inst < 68)
  | 0x0080 => decide (inst < 32)
  | 0x00A0 => decide (inst ≤ 68)
  | 0x00B0 => decide (inst ≤ 16)
  | _ => false

/-- The command names what exists. -/
def Instr.wf (i : Instr) : Bool :=
  match i with
  | .takeLoad _ m => mailOk m
  | .validationDone _ => true
  | .writingDone _ => true
  | .takeGo _ m => mailOk m
  | .takeAbort _ m => mailOk m
  | .takeUnload _ m => mailOk m
  | .posting _ => true
  | .occurrenceRelease _ id => idOk id
  | .reelCapture _ => true
  | .watchdogExpiry _ id => idOk id
  | .stepClapperRelease _ => true
  | .frameEnd _ => true
  | .nop _ _ => true
  | .endScript _ _ => true
  | .clap _ _ => true
  | .clapCut _ _ => true
  | .clapEarly _ _ => true
  | .loop _ _ => true
  | .mark _ _ => true
  | .waitSem _ _ => true
  | .postSem _ _ => true
  | .fetchSvc _ _ => true
  | .fieldInit _ _ => true
  | .sweep _ _ => true
  | .sweepSync _ _ => true
  | .sampleTap _ _ => true
  | .stateInit _ _ => true
  | .trueInit _ _ => true
  | .sampleTrue _ _ => true
  | .stripSend _ _ _ _ => true
  | .energyShare _ _ => true
  | .reduceSend _ _ => true
  | .deltaFlit _ _ => true
  | .gateDelta _ _ => true
  | .edgeRecord _ _ => true
  | .fieldStrip _ _ _ => true
  | .stateStrip _ _ _ _ _ _ _ => true
  | .roundNotice _ _ _ => true
  | .round _ => true
  | .cisternInsert _ => true
  | .mma _ _ => true
  | .mmaFlip _ _ => true
  | .mmaOuter _ _ => true
  | .drain _ _ => true
  | .fieldSet _ _ _ => true
  | .fieldDiff _ _ _ => true
  | .load _ _ => true
  | .store _ _ => true
  | .setGroups _ _ => true
  | .vnop _ _ => true
  | .vadd _ _ => true
  | .vsub _ _ => true
  | .vmul _ _ => true
  | .vfma _ _ => true
  | .vmax _ _ => true
  | .vcvt _ _ => true
  | .vsum _ _ => true
  | .vdot _ _ => true
  | .vln _ _ => true
  | .vnorm _ _ => true
  | .vnoise _ _ => true
  | .vrand _ _ => true
  | .vmove _ _ => true
  | .eacc _ _ => true
  | .eblock _ _ => true
  | .combine _ _ => true
  | .wupdate _ _ => true
  | .checkRow _ _ => true
  | .ladderRound _ _ => true
  | .phase _ _ => true
  | .cut _ _ => true
  | .watchdog _ _ => true
  | .meshFlit c r _ _ _ => nodeOk c r
  | .serviceRequest i q _ _ => arbOk i q
  | .arbiterDecision i q _ => arbOk i q
  | .revocation i q _ => arbOk i q
  | .withdrawal i q _ => arbOk i q
  | .burstExpiry i q _ => arbOk i q
  | .bankOwnerWrite _ c b v => bankOk c b && wordOk v
  | .handoverComplete c b => bankOk c b
  | .bankPowerRequest _ c b _ => bankOk c b
  | .bankTransitionDone c b => bankOk c b
  | .sramAccess _ addr len data _ => lineOk addr len data
  | .mergeWrite c b => bankOk c b
  | .testRegion c _ => columnOk c
  | .testSkipBank c => columnOk c
  | .vaultAccess _ addr len data _ _ _ => lineOk addr len data
  | .refresh v _ => vaultOk v
  | .layerSensorReading c layer _ => columnOk c && layerOk layer
  | .scrubLine v _ => vaultOk v
  | .vaultClear _ v => vaultOk v
  | .vaultClearDone v => vaultOk v
  | .lockRequest vault c n _ => if vault then columnOk c && decide (n < 32) else bankOk c n
  | .doorbell _ well _ => wellOk well
  | .programStart n _ => engineOk n
  | .move n => engineOk n
  | .fill n => engineOk n
  | .compare n => engineOk n
  | .pumpLoop n => engineOk n
  | .wait n => engineOk n
  | .waitConditionMet x => (match x with | .member _ _ => true | .engine n _ => engineOk n)
  | .waitTimeout n => engineOk n
  | .signal n => engineOk n
  | .pumpEnd n => engineOk n
  | .pumpFault n cause _ _ _ _ => engineOk n && decide (1 ≤ cause ∧ cause ≤ 7)
  | .stop _ well => wellOk well
  | .resume _ well => wellOk well
  | .skip _ well => wellOk well
  | .wellCfgWrite _ well v => wellOk well && wordOk v
  | .cringCfgWrite _ ring v => cringOk ring && wordOk v
  | .cringHeadWrite _ ring _ => cringOk ring
  | .bar2Read _ _ n => decide (0 < n)
  | .bar2Write _ _ data _ => !data.isEmpty
  | .registerWrite _ bar4 addr n _ => accessOk bar4 addr n
  | .counterLowRead _ bar4 addr n => accessOk bar4 addr n
  | .readClear _ addr n => accessOk false addr n
  | .cntClear _ ty inst => blockOk ty inst
  | .errClear _ ty inst => blockOk ty inst
  | .retryClear _ ty inst => blockOk ty inst
  | .errStatusWrite _ _ _ v => wordOk v
  | .errInject _ _ _ mode => decide (mode < 4)
  | .debugRead _ q => quadOk q
  | .genGo _ _ _ => true
  | .genEvalDone _ => true
  | .reelVerify _ => true
  | .restore _ _ => true
  | .keygen _ => true
  | .keyload _ => true
  | .keyclear _ => true
  | .bist _ _ => true
  | .reload _ _ => true
  | .substitution => true
  | .apply _ => true
  | .copy _ => true
  | .planApplied => true
  | .hostIfaceReq _ _ low high => decide (low < 16) && decide (high < 16)
  | .devIdWrite _ v => wordOk v
  | .budgetRequest _ reg v => decide (reg < 3) && wordOk v
  | .sluShareWrite _ v => wordOk v
  | .vcoreSet _ mv => wordOk mv
  | .throttleDecision ty inst _ _ => blockOk ty inst
  | .throttleStepDown ty inst => blockOk ty inst
  | .coreWideThrottle ty inst _ => blockOk ty inst
  | .coreWideRelease _ => true
  | .droop _ => true
  | .droopRelease _ => true
  | .thermalFactor temps => decide (temps.length = 16)
  | .thermalTrip column _ => columnOk column
  | .rawSample c _ => cellNoOk c
  | .startupTestDone c => cellNoOk c
  | .kat _ _ => true
  | .entRingCfgWrite _ _ i v => ringOk i && wordOk v
  | .entRingTail _ _ i _ => ringOk i
  | .entRequestServe _ i _ _ => ringOk i
  | .trngRawRead _ _ => true
  | .fwWrite _ => true
  | .fwVerify _ => true
  | .activate _ => true
  | .cancel _ => true
  | .activationStart _ => true
  | .revert => true
  | .portReset _ _ _ => true
  | .wholeDeviceReset _ _ => true
  | .powerUp _ => true
  | .powerDown => true
  | .inputFault => true
  | .inputRestored _ => true
  | .regRead _ count => countOk count
  | .regWrite _ words => countOk words.length && words.all wordOk
  | .reset _ => true
  | .pldmSensorRead sensor _ => decide (1 ≤ sensor ∧ sensor ≤ 9)
  | .pldmFirmwareUpdate _ => true
  | .touch k _ => cageOk k
  | .attentionButton k => cageOk k
  | .undrain _ i => linkOk i
  | .linkDrained i => linkOk i
  | .cableInsert k _ _ _ => cageOk k
  | .cableReady k _ => cageOk k
  | .cableRemoved k => cageOk k
  | .retrain _ i => linkOk i
  | .recal _ i => linkOk i
  | .linkTrained i dev plink _ _ => linkOk i && linkOk plink && decide (dev < 1024)
  | .linkTrainFail i => linkOk i
  | .linkTrainRetry i => linkOk i
  | .linkTransmit i _ => linkOk i
  | .linkControlWord i _ _ _ => linkOk i
  | .linkFlitError i seq _ _ => linkOk i && decide (seq < 256)
  | .linkScheduledFlit i flit => linkOk i && flitOk flit
  | .recoveryFlit l seq vc body => linkOk l && decide (seq < 256) && decide (vc < 4) && decide (body < 2 ^ 2048)
  | .forkRelease q flow => quadOk q && decide (flow < 4096)
  | .mcastStall q flow => quadOk q && decide (flow < 4096)
  | .arrive i flit => linkOk i && flitOk flit
  | .release i flit => linkOk i && flitOk flit
  | .clapStop i flit => linkOk i && flitOk flit
  | .serviceWrite i flit => linkOk i && flitOk flit
  | .readRequest i flit => linkOk i && flitOk flit
  | .readResponse i flit => linkOk i && flitOk flit
  | .errorResponse i flit => linkOk i && flitOk flit
  | .linkManagement i flit _ => linkOk i && flitOk flit
  | .lossOfSignal i => linkOk i
  | .pcieLinkUp _ rate width _ _ bar2 => decide (rate ≤ 5) && decide (1 ≤ width ∧ width ≤ 16) && decide (30 ≤ bar2 ∧ bar2 ≤ 36)
  | .perstRelease _ => true
  | .powerStateChange _ _ => true
  | .hostCompletion n _ _ _ => engineOk n
  | .captureDone _ => true
  | .reelCommandDone _ => true
  | .repairCommandDone _ _ => true
  | .substitutionDone _ => true
  | .fwCommandDone _ => true
  | .recalibrationDone i => linkOk i
  | .debugUartInput b => decide (b < 256)

end Sys2Proof
end

