-- ==== Sys2Proof/Tests/Slice0.lean ====
section
/-!
SUPPORT. Tests: what each obligation's hypotheses look like on small states, and commands whose effect the spec's
examples and rules fix.
-/

namespace Sys2Proof.Tests

open Sys2Proof.Machine

set_option Elab.async false

/-! ### Small states -/

/-- After reset with both links up, the device ready and vault 0 cleared. -/
def live : Dev := (((({} : Dev).wr (.hp 0) 0x104 0 1).wr (.hp 1) 0x104 0 1).wr .ident 0x100 0 1).wr (.vc 0) 0x204 0 0

def st (d : Dev) : State := { dev := d, pending := [] }

/-- An instruction word: opcode and operand fields. -/
def iw (op args : Nat) : Nat := op * 2 ^ 120 + args

/-- A member of a take, its script of two words at 0x100. -/
def mb (pg : Page) : Member :=
  ⟨0, pg, 0, 0x100, 2, 0, [], none, false, 0, false, 0, 0, 0, none, false, []⟩

/-- Port A's take runs; its members are `m`, which stands at a word, and `ms`. -/
def at1 (m : Member) (w : Nat) (ms : List Member := []) (t : Take := {}) (d : Dev := live) : Dev :=
  (({ d with takeA := { t with members := m :: ms } }).wr (.mbox 0) 0x120 4 4).st 0x100 16 w

/-- Tile 0 of port A with logical index 0, two variables (global indices 0 and 1) in four replicas, two colours, one
group, its stores 4 KiB apart from SRAM byte 0x1000 on; the fields of the two variables lie one behind the other. -/
def tileDev : Dev :=
  let t := Page.tile 0
  let d := ((((live.wr t 0x108 0 0).wr t 0x10C 0 4).wr t 0x10C 10 1).wr t 0x12C 3 1).wr t 0x12C 16 2
  let d := (List.range 7).foldl (fun d i => d.wr t (0x110 + 4 * i) 6 (64 * (i + 1))) d
  let d := ((d.wr t 0x400 0 0).wr t 0x404 0 2).wr t 0x104 1 1
  d.st (tileSram 0 + 0x1010) 16 (4 * 2 ^ 32)


/-- The device after a command. -/
def run1 (c : Instr) (d : Dev) : Dev := match exec c (st d) with | .next t => t.dev | _ => d
/-! ### Registers and memory -/

/-- FieldsLegal: a legal code and a reserved one of TILE_MODE, bounds of `replicas`, a key of no register. -/
theorem test_hyp_fieldsLegal :
    let pg := Page.tile 143;
    regLegal (fieldKey (pg.base + 0x10C) 0) 512 = true ∧ regLegal (fieldKey (pg.base + 0x10C) 0) 513 = false ∧
      regLegal (fieldKey (pg.base + 0x10C) 0) 0 = false ∧ regLegal (fieldKey (pg.base + 0x400) 0) (2 ^ 32 - 1) = true ∧
      regLegal (fieldKey (pg.base + 0x108) 0) 0xFF = true := by
  decide +kernel

/-- MemoryReadsBack: the last bytes of the local space; the first and the last element of each width. -/
theorem test_hyp_memoryReadsBack :
    (localSpace - 3) + [1, 2, 3].length ≤ localSpace ∧
      ∀ w ∈ [1, 2, 4, 6, 8, 16, 32, 64], 0x1000 + (max 0 7 + 4) * 8 ≤ localSpace ∧ (0 : Nat) ≠ 7 ∧ w ≤ 64 := by
  decide

/-- StepKeepsSound: a command in front of the queue after reset. -/
theorem test_hyp_stepKeepsSound :
    (∃ t, step { State.reset with pending := [.powerDown] } = .next t) ∧ State.reset.dev.Mirrors := by
  refine ⟨⟨_, rfl⟩, ?_⟩
  unfold Dev.Mirrors; decide +kernel

/-! ### Witnesses: states and operands that meet the hypotheses of each obligation -/

/-- CommonInstructions: each instruction at its member, at the ends of its operands' ranges. -/
theorem test_hyp_commonInstructions :
    ∀ x ∈ [(mb (.tile 0), iw 0 0), (mb .clap, iw 0 0), (mb (.tile 143), iw 0 (2 ^ 32 - 1)), (mb (.me 3), iw 5 (2 ^ 32 + 1)),
        (mb (.ve 15), iw 6 (2 ^ 32 - 1)), (mb (.tile 0), iw 8 (2 ^ 48 - 1))],
      let d := at1 x.1 x.2 [] { clapScript := [x.2, 0] }
      d.Mirrors ∧ d.due .a 0 x.1 x.2 ∧ opcodeOf x.2 ∈ [0, 5, 6, 8] ∧
        (x.1.page.isEngine || x.1.page.isClap) = true := by
  unfold Dev.Mirrors Dev.due; decide +kernel

/-- ClapsArrive: CLAP, CLAP_CUT and CLAP_EARLY at the first and the last identifier, and END. -/
theorem test_hyp_clapsArrive :
    (∀ x ∈ [iw 1 0, iw 2 0, iw 2 63, iw 3 5, iw 4 31], (at1 (mb (.tile 7)) x).Mirrors ∧
      (at1 (mb (.tile 7)) x).due .a 0 (mb (.tile 7)) x ∧ opcodeOf x ∈ [1, 2, 3, 4]) ∧
    (live.clapRange .a).1 + 31 < 32 := by
  unfold Dev.Mirrors Dev.due; decide +kernel

/-- WaitsAndFetches: a semaphore at its value, below it, and reached; lines fetched up to the end of a tile's SRAM. -/
theorem test_hyp_waitsAndFetches :
    (∀ x ∈ [iw 7 0, iw 7 (2 ^ 16)], (at1 (mb (.tile 0)) x).Mirrors ∧
      (at1 (mb (.tile 0)) x).due .a 0 (mb (.tile 0)) x ∧ opcodeOf x = 7) ∧
    live.sem 0 < bits (iw 7 (2 ^ 16)) 16 32 ∧
    (at1 { mb (.tile 0) with waiting := true } (iw 7 0)).member .a 0 = some { mb (.tile 0) with waiting := true } ∧
    (at1 (mb (.tile 143)) (iw 9 (2 ^ 80 + 65535 * 2 ^ 48))).due .a 0 (mb (.tile 143)) (iw 9 (2 ^ 80 + 65535 * 2 ^ 48)) ∧
    (Page.tile 143).ownMem + 64 * 65535 + 64 ≤ localSpace ∧
    (at1 (mb (.tile 143)) (iw 9 (2 ^ 80 + 65535 * 2 ^ 48))).clearingIn 0 64 = [] ∧
    (live.wr (.vc 15) 0x3F4 0 1).vaultField 511 4 0 = 1 ∧ live.rd (vaultPage 511) 0x01C 0 = 0 ∧
    (2 ^ 36 - 64) / 2 ^ 27 = 511 ∧ (2 ^ 36 - 64 + 64 * 1 - 1) / 2 ^ 27 = 511 := by
  unfold Dev.Mirrors Dev.due; decide +kernel

/-- SweepsStart: FIELD_INIT in both modes; the three steps, SAMPLE_TRUE with its instance ready; SWEEP before
FIELD_INIT. -/
theorem test_hyp_sweepsStart :
    (∀ b ∈ [false, true], let d := at1 (mb (.tile 0)) (iw 0x40 5) [] { cs := { lattice := b } } tileDev
      d.Mirrors ∧ d.due .a 0 (mb (.tile 0)) (iw 0x40 5) ∧ (d.take .a).cs.lattice = b) ∧
    (∀ op ∈ [0x41, 0x42, 0x46], let d := at1 (mb (.tile 0)) (iw op 1) [] {} (tileDev.wr .entCell 0x110 0 1)
      d.Mirrors ∧ d.due .a 0 (mb (.tile 0)) (iw op 1) ∧ d.rd .entCell 0x110 0 = 1 ∧
        d.rdBool (.tile 0) 0x104 1 = true ∧ (d.take .a).cs.lattice = false ∧ opcodeOf (iw op 1) = op) ∧
    (let d := at1 (mb (.tile 143)) (iw 0x41 1);
      d.due .a 0 (mb (.tile 143)) (iw 0x41 1) ∧ d.rdBool (.tile 143) 0x104 1 = false ∧
        d.rd (.tile 143) 0x020 24 = 0) := by
  unfold Dev.Mirrors Dev.due; decide +kernel

/-- TileInstructionsAdvance: all replicas, a list of two of them at word 0, a tap armed and disarmed. -/
theorem test_hyp_tileInstructionsAdvance :
    (∀ op ∈ [0x44, 0x45, 0x48, 0x49, 0x43], ∀ off ∈ [0, 0xFFFF],
      let d := at1 (mb (.tile 0)) (iw op off) [] {} (((tileDev.wr .entCell 0x110 0 1).st (tileSram 0 + 0x5000) 4 2).st
        (tileSram 0 + 0x5004) 4 0x30000)
      d.Mirrors ∧ d.due .a 0 (mb (.tile 0)) (iw op off) ∧ d.rd .entCell 0x110 0 = 1 ∧
        (off = 0 → (d.tileCtx .a 0).selection d (bits (iw op off) 0 16) = some [0, 3])) ∧
    bit (iw 0x43 (2 ^ 112)) 112 = true := by
  unfold Dev.Mirrors Dev.due; decide +kernel

/-- ReductionWaits: a second tile still to send; one tile alone. -/
theorem test_hyp_reductionWaits :
    (∃ l < ({ live with takeA := { cs := { tiles := 2 } } } : Dev).takeA.cs.tiles, l ≠ 0) ∧
    (let d : Dev := { live with takeA := { cs := { tiles := 1 } } };
      d.takeA.reds = [] ∧ ∀ a ∈ [0, tileSram 143], d.clearingIn a 4 = []) := by
  decide +kernel

/-- StepsEnd: a tile at the last step of its SWEEP, its frame ended, or at the step clapper. -/
theorem test_hyp_stepsEnd : ∀ b ∈ [false, true],
    let d := at1 { mb (.tile 0) with sweep := some { sweepOf 0x41 (iw 0x41 1) with half := 1, early := b } } (iw 0x41 1) [] {}
      tileDev
    d.stepGroup .a ≠ [] ∧ (d.take .a).flits = [] ∧ (d.take .a).strips = [] ∧ (d.take .a).stops.status = 0 ∧
      (d.take .a).failedLinks = 0 ∧ (d.take .a).cs.lattice = false ∧
      (∀ x ∈ d.stepGroup .a, x.2.2.op ≠ 0x40 ∧ x.2.2.left ≤ 1 ∧ x.2.2.half = 1 ∧ x.2.2.early = b) := by
  decide +kernel

/-- A tile in an instruction, with steps left and at a half of its step. -/
def stepping (op left half : Nat) : Dev :=
  at1 { mb (.tile 0) with sweep := some { sweepOf op (iw op 1) with left := left, half := half } } (iw op 1) [] {} tileDev

/-- StepsEnd: steps left; the clapper inside FIELD_INIT, that between two halves, the end of FIELD_INIT's frame. -/
theorem test_hyp_stepsEnd_inner : ∀ x ∈ [(0x41, 2, 1), (0x40, 1, 1), (0x42, 1, 0), (0x40, 1, 2)],
    let d := stepping x.1 x.2.1 x.2.2
    d.stepGroup .a ≠ [] ∧ (d.take .a).flits = [] ∧ (d.take .a).strips = [] ∧ (d.take .a).stops.status = 0 ∧
      (d.take .a).failedLinks = 0 ∧ (d.take .a).cs.lattice = false ∧
      (∀ y ∈ d.stepGroup .a, y.2.2.op = x.1 ∧ y.2.2.left = x.2.1 ∧ y.2.2.half = x.2.2 ∧ y.2.2.early = false ∧
        d.rd y.2.1.page 0x024 0 = 0 ∧ y.2.1.page = .tile 0) := by
  decide +kernel

/-- A delta of 5 for variable 1 in replica 2; a gate delta of group 0's gate; an edge record of step 0. -/
def delta1 : Nat := 5 + 2 ^ 32 + 2 * 2 ^ 64 + 255 * 2 ^ 88
def inSweep (op : Nat) (t : Take) (d : Dev) : Dev :=
  at1 { mb (.tile 0) with sweep := some { sweepOf op (iw op 1) with half := 1 } } (iw op 1) [] t d

/-- FlitsApply: a flit of one delta and seven empty positions, a gate delta, an edge record on their way. -/
theorem test_hyp_flitsApply_taken :
    (let d := inSweep 0x41 { flits := [⟨255, 0, delta1, false⟩] } tileDev;
      let ps := delta1 :: List.replicate 7 (3 * 2 ^ 73);
      d.running .a = true ∧ d.calm .a = true ∧ (d.destTile .a delta1).isSome ∧ (d.take .a).cs.lattice = false ∧
        ps.find? (fun g => bits g 73 2 != 3) = some delta1 ∧ (∀ g ∈ ps, bits g 73 2 ≠ 1) ∧
        (∀ g ∈ ps, bits g 73 2 = 3 ∨ bits g 80 8 = bits delta1 80 8 ∧ d.accepts .a (d.tileCtx .a 0) g = true)) ∧
    (let d := at1 (mb (.tile 0)) 0 [] { cs := { lattice := true }, flits := [⟨1, 0, 0, false⟩] } tileDev;
      d.running .a = true ∧ d.calm .a = true ∧ (d.destTile .a 0).isSome ∧
        ((d.take .a).memberOf (.tile 0)).isSome = true) := by
  decide +kernel

theorem test_hyp_flitsApply_delta :
    let d := inSweep 0x41 {} tileDev
    d.running .a = true ∧ d.calm .a = true ∧ (d.tileCtx .a 0).openField d
        (((d.tileCtx .a 0).desc d 1).fieldAddr (bits delta1 64 9) (bits delta1 60 4)) = false ∧ (d.take .a).cs.lattice = false ∧ bits delta1 73 2 = 0 ∧ bits delta1 75 5 = 0 ∧
      bits delta1 118 10 = 0 ∧ d.siteOf .a (bits delta1 80 8) = some 0 ∧ bits delta1 96 16 ≠ 0xFFFF ∧
      ((d.take .a).memberOf (.tile 0)).isSome = true ∧
      (d.tileCtx .a 0).place d (bits delta1 32 28) = some (0, 1) ∧ (d.tileCtx .a 0).l = 0 ∧
      bits delta1 60 4 < ((d.tileCtx .a 0).desc d 1).slots ∧
      ((d.tileCtx .a 0).desc d 1).fieldAddr (bits delta1 64 9) (bits delta1 60 4) + 4 ≤ localSpace := by
  decide +kernel

theorem test_hyp_flitsApply_gate :
    let f := 1 * 2 ^ 73 + 3 * 2 ^ 64 + 255 * 2 ^ 88 + 0xFFFF * 2 ^ 96
    let d := inSweep 0x40 { flits := [⟨255, 0, f, true⟩] } tileDev
    d.Mirrors ∧ d.running .a = true ∧ d.calm .a = true ∧ d.siteOf .a (bits f 80 8) = some 0 ∧ bits f 73 2 = 1 ∧ bits f 75 5 = 0 ∧
      bits f 118 10 = 0 ∧ bits f 8 24 = 0 ∧ bits f 60 4 = 0 ∧ d.accepts .a (d.tileCtx .a 0) f = true ∧
      (d.tileCtx .a 0).groups = 1 ∧ ((d.tileCtx .a 0).group d 0).gate = bits f 32 28 ∧
      bits f 64 9 < (d.tileCtx .a 0).reps ∧ (d.tileCtx .a 0).store 6 + 64 ≤ localSpace := by
  unfold Dev.Mirrors; decide +kernel

theorem test_hyp_flitsApply_edge :
    let d := at1 (mb (.tile 0)) 0 [] { cs := { lattice := true } } tileDev
    d.Mirrors ∧ d.running .a = true ∧ d.calm .a = true ∧ d.siteOf .a 0 = some 0 ∧ (d.take .a).memberOf (.tile 0) = some (mb (.tile 0)) ∧
      (d.take .a).cs.lattice = true ∧ (mb (.tile 0)).sweep = none := by
  unfold Dev.Mirrors; decide +kernel

/-- A ladder on vector engine 0: two replicas on one rung ladder, an interval of one sweep of four steps. -/
def ladder0 : Ladder := ⟨0, 0, [3, -4], 0, [], 0, [0], List.replicate 8 0, [0, 0], [0, 0], [false, false], [0, 0], 0⟩
def ladderDev (m : Member) (l : Ladder) (t : Take) : Dev :=
  at1 m 0 [] { t with ladder := some l, cs := { t.cs with tiles := 1 } }
    ((tileDev.setTile 0 { energy := [5, 6] }).st (veSram 0) 64 (2 * 2 ^ 16 + 2 ^ 32 + 2 ^ 64))

/-- RoundsRun: the end of the first interval, with a candidate still waiting and without; before it, between two, and a
second time. -/
theorem test_hyp_roundsRun :
    (∀ cs ∈ [[], [(⟨0, 0, 3, 0, 0⟩ : Cand)]],
      let ladder0 := { ladder0 with cands := cs };
      let d := ladderDev { mb (.tile 0) with step := 4 } ladder0 {};
      d.running .a = true ∧ d.calm .a = true ∧ d.roundStep .a = some 4 ∧ ladder0.counts ≠ [] ∧ lrOrigin (ladder0.record d) < 4 ∧
        (d.take .a).ladder = some ladder0 ∧ (d.take .a).cs.stepOrigin < 4 ∧ 0 < lrInterval (ladder0.record d) ∧
        (4 - lrOrigin (ladder0.record d)) % (4 * lrInterval (ladder0.record d)) = 0 ∧ ladder0.last ≠ 4) ∧
    ∀ x ∈ [(0, 0), (3, 0), (4, 4)],
      let d := ladderDev { mb (.tile 0) with step := x.1 } { ladder0 with last := x.2 } {};
      d.Mirrors ∧ d.roundStep .a = some x.1 ∧
      (x.1 ≤ lrOrigin (ladder0.record d) ∨ (x.1 - lrOrigin (ladder0.record d)) % (4 * lrInterval (ladder0.record d)) ≠ 0 ∨
        x.2 = x.1) := by
  unfold Dev.Mirrors; decide +kernel

/-- RoundsRun: a notice on its way; a candidate waiting. -/
theorem test_hyp_roundsRun_notices :
    (let d := ladderDev (mb (.tile 0)) ladder0 { notices := [(0, 0)] };
      d.Mirrors ∧ d.running .a = true ∧ d.calm .a = true ∧ d.siteOf .a 0 = some 0 ∧ (d.take .a).ladder = some ladder0 ∧
        ((d.take .a).memberOf (.tile 0)).isSome = true ∧ d.noticeMode .a ladder0 ≠ 1 ∧ ∀ i < 16, bits 0 (512 + 32 * i) 32 = 0) ∧
    (let d := ladderDev (mb (.tile 0)) { ladder0 with cands := [⟨0, 0, 3, 0, 4⟩] } {};
      d.running .a = true ∧ d.calm .a = true ∧ (d.take .a).notices = [] ∧
        ({ ladder0 with cands := [⟨0, 0, 3, 0, 4⟩] } : Ladder).entries ≤ lrCap (ladder0.record d)) := by
  unfold Dev.Mirrors; decide +kernel

/-- MatrixCopiesAndGroups: LOAD and STORE of one unit to each buffer; a set of two groups. -/
theorem test_hyp_matrixCopiesAndGroups :
    (∀ op ∈ [0x46, 0x47], ∀ wide ∈ [0, 1], let w := iw op (2 ^ 96 + wide * 2 ^ 79 + 0x4000);
      let d := at1 (mb (.me 3)) w;
      d.Mirrors ∧ d.due .a 0 (mb (.me 3)) w ∧ bits w 0 38 + 256 * bits w 96 16 ≤ localSpace ∧
        d.clearingIn (bits w 0 38) (256 * bits w 96 16) = []) ∧
    (let w := iw 0x48 2; let d := at1 (mb (.me 0)) w [] {} ((live.st (opBuf 0 0) 8 (2 ^ 20 + 2 ^ 37)).st
        (opBuf 0 0 + 8) 8 (16 + 2 ^ 20 + 2 ^ 37));
      let ws := (List.range (bits w 0 9)).map (fun i => d.ld (opBuf 0 (bits w 48 16) + 8 * i) 8);
      d.Mirrors ∧ d.due .a 0 (mb (.me 0)) w ∧ ws.length = 2 ∧ (∀ x ∈ ws, cgReserved x = false) ∧
        ∀ i < ws.length, cgBad ws i = false) := by
  unfold Dev.Mirrors Dev.due; decide +kernel

/-- GroupSumsEnterCell: 32-bit and 16-bit accumulation. -/
theorem test_hyp_groupSumsEnterCell : (0 : Nat) < 2 ∧ 1 < 2 ∧ 2 ≤ 2 ∧ 2 ≤ 3 := by decide +kernel

/-- ProductsAccumulate: the three products, dense and 2-of-4, from zero and added. -/
theorem test_hyp_productsAccumulate :
    ∀ op ∈ [0x40, 0x41, 0x42], ∀ x ∈ [0, 2 ^ 112, 2 ^ 115], let w := iw op x;
      let d := at1 (mb (.me 3)) w [] {} (live.st (opBuf 3 0 + 16 * 8) 2 0xDDDD);
      d.Mirrors ∧ d.due .a 0 (mb (.me 3)) w ∧ (d.mma .a 3 w).spill = 0 ∧ (d.take .a).strips = [] ∧
        ((d.mma .a 3 w).sparse = 1 → x = 2 ^ 115) := by
  unfold Dev.Mirrors Dev.due; decide +kernel

/-- One 2-of-4 brick whose offsets ascend in its one row, and one whose offsets do not. -/
theorem test_hyp_productsAccumulate_sparse :
    let w := iw 0x40 (2 ^ 115 + 2 ^ 73);
    let d := at1 (mb (.me 3)) w;
    ((d.mma .a 3 w).badMeta (d.st (opBuf 3 0 + 16 * (d.mma .a 3 w).fa.width) 2 0x4444) = none) ∧
      ((d.mma .a 3 w).badMeta d).isSome = true := by decide +kernel

/-- A fixed-frame MMA_FLIP whose state strip is still on its way. -/
theorem test_hyp_productsAccumulate_wait :
    let d := at1 (mb (.me 3)) (iw 0x41 0) [] { strips := [⟨0, 0, 3, 0, [1]⟩] };
    (d.mma .a 3 (iw 0x41 0)).early = false ∧ d.due .a 0 (mb (.me 3)) (iw 0x41 0) ∧
      ∃ x ∈ (d.take .a).strips, d.stripFor 3 (mb (.me 3)).half x = true := by
  unfold Dev.due; decide +kernel

/-- DrainConverts and FieldsHandedOff: each drain of a register, with and without statistics. -/
theorem test_hyp_drains :
    ∀ op ∈ [0x43, 0x44, 0x45], ∀ x ∈ [0, 2 ^ 113], let w := iw op (x + 2 ^ 48 + 2 ^ 17); let d := at1 (mb (.me 0)) w;
      d.Mirrors ∧ d.due .a 0 (mb (.me 0)) w ∧ opcodeOf w = op ∧ (d.acc 0 0 (bits w 112 1)).spilled = false ∧
        apart (opBuf 0 (bits w 48 16)) 4 (opBuf 0 (bits w 32 16)) 4 ∧
        (bit w 113 = true → apart (opBuf 0 (bits w 48 16)) 4 (opBuf 0 (bits w 16 16)) 32 ∧
          apart (opBuf 0 (bits w 32 16)) 4 (opBuf 0 (bits w 16 16)) 32 ∧ opBuf 0 (bits w 16 16) + 32 ≤ wideBuf 0) := by
  unfold Dev.Mirrors Dev.due apart; decide +kernel

/-- StripsTravel: one variable to two engines, its flip bits too. -/
theorem test_hyp_stripsTravel_sent :
    let w := iw 0x47 (2 ^ 80 + 2 ^ 112);
    let d := at1 (mb (.tile 0)) w [] {} tileDev;
    d.Mirrors ∧ d.due .a 0 (mb (.tile 0)) w ∧ opcodeOf w = 0x47 := by
  unfold Dev.Mirrors Dev.due; decide +kernel

/-- StripsTravel: a state strip with flip bits for the last row; a field strip of 32 words at strides 1 and 8. -/
def stripT : Take :=
  { strips := [⟨0, 0, 7, 0, List.replicate 532 1⟩, ⟨1, 0xF0, 0, 0, List.replicate 32 (2 ^ 32 - 1)⟩] }

theorem test_hyp_stripsTravel_landed :
    let d := at1 (mb (.tile 0)) 0 [] stripT tileDev;
    d.running .a = true ∧ d.calm .a = true ∧
      (∃ x, (d.take .a).strips[0]? = some x ∧ x.kind = 0 ∧ x.dst < 8 ∧ 512 < x.data.length) ∧
      opBuf 3 0 + up16 16 * up16 20 * 32 * (64 + 1) ≤ localSpace ∧
      (∃ x, (d.take .a).strips[1]? = some x ∧ x.kind = 1 ∧ d.siteOf .a x.dst = some 0 ∧ x.data.length ≤ 32 ∧
        (∀ y ∈ x.data, y < 2 ^ 32)) ∧
      (d.tileCtx .a 0).deep = false ∧ (∀ v < (d.tileCtx .a 0).vars, (d.tileCtx .a 0).overlapped d v = false) ∧
      apart ((d.tileCtx .a 0).store 1) 2048 ((d.tileCtx .a 0).store 0) (16 * (d.tileCtx .a 0).vars) ∧
      (d.tileCtx .a 0).store 1 + 2048 ≤ localSpace ∧
      (∀ S ∈ [1, 8], bits (S * 2 ^ 18) 18 5 = S ∧ S * 2 ^ 18 < 2 ^ 51 ∧
        ((∃ j < 32, ∃ n < j, (0 + n * S) % 128 = (0 + j * S) % 128) ↔ S = 8)) :=
  ⟨by decide +kernel, by decide +kernel, ⟨_, rfl, by decide +kernel⟩, by decide +kernel, ⟨_, rfl, by decide +kernel⟩,
    by decide +kernel, by decide +kernel, by unfold apart; decide +kernel, by decide +kernel⟩

/-- ElementwiseComputes, VectorSumsAndMoves, VectorElements, EnergiesAndChecks: each instruction at the last vector
engine, with operands a line apart. -/
theorem test_hyp_vectors :
    ∀ op ∈ [0x40, 0x41, 0x42, 0x43, 0x44, 0x45, 0x46, 0x47, 0x48, 0x49, 0x4A, 0x4B, 0x4C, 0x4D, 0x4E, 0x4F, 0x50, 0x51,
        0x52, 0x53],
      let w := iw op (2 ^ 96 + 2 * 2 ^ 80 + 2 ^ 64); let d := at1 (mb (.ve 15)) w; let v : VWord := ⟨w, 15⟩;
      d.Mirrors ∧ d.due .a 0 (mb (.ve 15)) w ∧ opcodeOf w = op ∧ v.srcA + 16 * v.n ≤ v.dst ∧
        v.imm 0 38 + 64 * v.n ≤ localSpace ∧ (d.take .a).restore = none := by
  unfold Dev.Mirrors Dev.due; decide +kernel

/-! ### Takes -/

/-- A host writes its own mailbox page at any offset while its port is up. -/
theorem canWrite_mbox (d : Dev) (p : Port) (hu : d.hostUp p) (hg : d.rdBool (mboxPage p) 0x014 0 = true)
    (ho : (d.owner (mboxPage p) == 2 || d.owner (mboxPage p) == p.idx) = true) (o : Nat) :
    d.canWrite (.host p) (mboxPage p) o := by
  refine ⟨?_, ?_, hu, rfl⟩
  · have h : d.gate (.host p) ((mboxPage p).base + o) (mboxPage p) o =
        if (d.owner (mboxPage p) == 2 || d.owner (mboxPage p) == p.idx) = true then .pass
        else .refused p 0x21 (((mboxPage p).base + o) / 4) := by
      simp only [Dev.gate, Dev.hostGate, mboxPage]
      exact ite_self _
    rw [h, if_pos ho]
  · unfold Dev.gone; rw [hg]; simp

/-- ClapperScriptRuns: the unit's three instructions. -/
theorem test_hyp_clapperScriptRuns : ∀ op ∈ [0x40, 0x41, 0x42], ∀ x ∈ [0, 1],
    let d := at1 (mb .clap) (iw op 0x305) [] { clapScript := [iw op 0x305], cs := { sets := [x] } };
    d.Mirrors ∧ d.due .a 0 (mb .clap) (iw op 0x305) ∧ opcodeOf (iw op 0x305) = op ∧ d.inSet .a 5 (mb .clap) = (x == 1) := by
  unfold Dev.Mirrors Dev.due; decide +kernel

/-- A mailbox command of take 7: its call sheet at 0x400, its record at 0x8000. -/
def mail (cmd : Nat) : Nat := cmd + 0x400 * 2 ^ 64 + 0x8000 * 2 ^ 128 + 7 * 2 ^ 192

/-- A take of id 7 of port A in state `st`. -/
def inState (x : Nat) (d : Dev) (t : Take := {}) : Dev :=
  ({ d with takeA := { t with cmd := ⟨false, 0, 0x400, 0x8000, 7⟩ } }.wr (.mbox 0) 0x120 4 x).wr64 (.mbox 0) 0x128 7

/-- LoadStartsValidation: an idle partition; four commands held. -/
theorem test_hyp_loadStartsValidation :
    (let d := live.wr (.vc 0) 0x20C 0 0; let M := putBits (mail 0) 0 8 1;
      d.Mirrors ∧ d.rd (mboxPage .a) 0x120 0 ≠ 4 ∧ mbReserved M = none ∧ bits M 128 64 % 64 = 0 ∧
      d.dramOwned .a (bits M 128 64) 320 = true ∧ d.rdBool .fw 0x104 1 = false ∧ d.takeState .a = 0) ∧
    (let d := live.wr (.mbox 0) 0x120 0 4; d.Mirrors ∧ d.rd (mboxPage .a) 0x120 0 = 4 ∧ d.rd (mboxPage .a) 0x01C 0 = 0) := by
  unfold Dev.Mirrors; decide +kernel

/-- Its host may write all of its mailbox page. -/
theorem test_hyp_mailbox (x y : Nat) (hx : x < 5) (hy : y < 5) (o : Nat) :
    ((inState x live).wr (.mbox 0) 0x120 0 y).canWrite (.host .a) (mboxPage .a) o := by
  have h : ∀ x < 5, ∀ y < 5, let d := (inState x live).wr (.mbox 0) 0x120 0 y;
      d.hostUp .a ∧ d.rdBool (mboxPage .a) 0x014 0 = true ∧
        (d.owner (mboxPage .a) == 2 || d.owner (mboxPage .a) == Port.a.idx) = true := by
    unfold Dev.hostUp; decide +kernel
  have h := h x hx y hy
  exact canWrite_mbox _ _ h.1 h.2.1 h.2.2 o

/-- A call sheet for one tile at 0x400: six sections, one script of the word END; `iface` its version, `c0` and `c1`
its two CRCs. -/
def sheetDev (iface c0 c1 : Nat) : Dev :=
  let e ty off len cnt := ty + off * 2 ^ 32 + len * 2 ^ 64 + cnt * 2 ^ 96
  let ws : List (Nat × Nat × Nat) :=
    [(0x00, 4, 0x53434B49), (0x04, 1, 4), (0x08, 4, 0x280), (0x0C, 4, c0), (0x10, 2, 6), (0x14, 4, 1), (0x40, 8, 7),
      (0x56, 2, 0x101), (0x58, 4, c1), (0x5C, 4, 1), (0x60, 1, iface), (0x80, 16, e 1 0x100 4 1),
      (0x90, 16, e 2 0x140 0 0), (0xA0, 16, e 3 0x140 16 1), (0xB0, 16, e 4 0x180 144 1), (0xC0, 16, e 5 0x240 0 0),
      (0xD0, 16, e 8 0x240 6 1), (0x100, 4, 0x30), (0x140, 16, 2 ^ 96), (0x180, 1, 1), (0x190, 4, 0x10001),
      (0x240, 4, 1)]
  let d := (((tileDev.wr .ident 0x108 0 1).wr (.vc 0) 0x20C 0 0).wr (.mbox 0) 0x158 0 3).wr (.tile 0) 0x030 0 1
  inState 1 ((ws.foldl (fun d w => d.st (0x400 + w.1) w.2.1 w.2.2) d).st (tileSram 0) 16 (iw 1 0))

/-- ValidationEnds: the sheet accepted; a sheet of zeros refused. -/
theorem test_hyp_validationEnds_accepted :
    let d := sheetDev 1 367263393 2823247612;
    d.Mirrors ∧ d.takeState .a = 1 ∧ d.rdBool (.rep 0) 0x104 2 = false ∧ (d.take .a).cmd.csAddr = 0x400 ∧
    d.dramOwned .a 0x400 (max 0x80 (d.sheetAt 0x400).size) = true ∧
    (d.sheetAt 0x400).takeId = (d.take .a).cmd.takeId ∧ (d.quiet.validate .a 0x400).refusal = none ∧
    d.rd .cc 0x024 0 = 0 ∧ d.quiet.standing .a (d.quiet.validate .a 0x400).sheet = [] := by
  unfold Dev.Mirrors; decide +kernel

theorem test_hyp_validationEnds_refused :
    let d := inState 1 (live.wr (.vc 0) 0x20C 0 0);
    d.Mirrors ∧ d.takeState .a = 1 ∧ d.rdBool (.rep 0) 0x104 2 = false ∧ (d.take .a).cmd.csAddr = 0x400 ∧
    d.dramOwned .a 0x400 (max 0x80 (d.sheetAt 0x400).size) = true ∧ (d.sheetAt 0x400).check1 = some .sheet ∧
    (d.quiet.validate .a 0x400).refusal = some (0x40, .sheet) ∧ (d.take .a).cmd.resultAddr + 64 ≤ localSpace := by
  unfold Dev.Mirrors; decide +kernel

theorem test_hyp_validationEnds_entry :
    let d := (sheetDev 1 367263393 2823247612).wr (.tile 0) 0x030 0 2;
    d.Mirrors ∧ d.takeState .a = 1 ∧ (d.quiet.validate .a 0x400).refusal = some (0x44, .entry 0x01 0) := by
  unfold Dev.Mirrors; decide +kernel

/-- TakesStartRunning: WRITING with and without hold; GO of a loaded take. -/
theorem test_hyp_takesStartRunning :
    (∀ h ∈ [false, true], let d := { inState 2 live with
        takeA := { members := [mb (.tile 0)], cmd := { hold := h } } };
      d.Mirrors ∧ (d.take .a).cs.multi = false ∧ d.takeState .a = 2 ∧ (d.take .a).cmd.hold = h ∧
        (d.quiet.ownBanks .a).staleBlock .a
          ((d.take .a).cs.blocks.map ((d.quiet.ownBanks .a).blockPage .a)) = none ∧
        (d.quiet.ownBanks .a).powerCheck .a (d.take .a).cs = none) ∧
    (let d := inState 3 live; let M := putBits (mail 0) 0 8 2;
      d.Mirrors ∧ d.takeState .a = 3 ∧ d.rd (mboxPage .a) 0x120 0 ≠ 4 ∧ mbReserved M = none ∧ d.rdBool .fw 0x104 1 = false ∧
      bits M 192 64 = d.rd64 (mboxPage .a) 0x128 ∧ d.rdBool (.reel 0) 0x104 0 = false ∧
      d.staleBlock .a ((d.take .a).cs.blocks.map (d.blockPage .a)) = none ∧ d.powerCheck .a (d.take .a).cs = none) := by
  unfold Dev.Mirrors; decide +kernel

/-- AbortAndUnload: each state a command of theirs meets. -/
theorem test_hyp_abortAndUnload : ∀ x ∈ [1, 2, 3, 4], ∀ c ∈ [3, 4],
    let d := inState x live; let M := putBits (mail 0) 0 8 c;
    d.Mirrors ∧ d.takeState .a = x ∧ d.rd (mboxPage .a) 0x120 0 ≠ 4 ∧ mbReserved M = none ∧ d.rdBool .fw 0x104 1 = false ∧
      bits M 192 64 = d.rd64 (mboxPage .a) 0x128 ∧ (d.take .a).cmd.resultAddr + 64 ≤ localSpace := by
  unfold Dev.Mirrors; decide +kernel

/-- Two members at identifier 0, or at END, each by CLAP. -/
def atClap (id : Nat) (stop : Bool) : Dev :=
  at1 { mb (.tile 0) with arrived := some id, beats := 5 } (iw 0x02 id)
    [{ mb (.ve 3) with arrived := some id, beats := 7, base := 0x200, blk := 1 }]
    { stops := { abort := stop }, watchdog := 9,
      cs := { claps := [⟨true, false, false, false, 0, 0⟩], sets := [3], blocks := [(0x30, 0), (0x50, 3)] } }

/-- OccurrencesResolve: an occurrence all have come to, and END, released or stopped; the watchdog. -/
theorem test_hyp_occurrencesResolve : ∀ x ∈ [false, true], ∀ y ∈ [false, true],
    let d := atClap 0 x; let d := if y then atClap (d.endId .a) x else d; let id := if y then d.endId .a else 0;
    d.Mirrors ∧ d.running .a = true ∧ (d.take .a).started = true ∧ (d.take .a).withheld = none ∧ id ∉ (d.take .a).xsent ∧
      d.complete .a id = true ∧ d.roundHolds .a id = false ∧ (d.take .a).reds = [] ∧ (d.take .a).failedLinks = 0 ∧ (d.take .a).cs.multi = false ∧
      (d.take .a).cs.cls = 0 ∧ (d.take .a).phaseAt = [] ∧ (d.take .a).cutAt = [] ∧ d.rd .clap 0x024 0 = 0 ∧
      (∀ m ∈ (d.take .a).here id, opcodeOf (d.scriptWord (d.take .a) m.2 m.2.pc) ≠ 0x04) ∧
      (∀ a ∈ (d.take .a).marks id, ∀ b ∈ (d.take .a).marks id, a = b) ∧
      ((d.take .a).stops.status = 0 ↔ x = false) ∧ (d.take .a).watchdog ≠ 0 ∧ (d.take .a).here id ≠ [] := by
  unfold Dev.Mirrors; decide +kernel

/-- OccurrencesResolve: the two members mark, and their counts differ. -/
def atSkew : Dev :=
  let d := atClap 0 false
  { d with takeA := { d.takeA with members := d.takeA.members.map fun m => { m with marking := true, step := m.beats } } }

theorem test_hyp_occurrencesResolve_skew :
    atSkew.running .a = true ∧ atSkew.complete .a 0 = true ∧ (atSkew.take .a).stops.status = 0 ∧
      ∃ a ∈ (atSkew.take .a).marks 0, ∃ b ∈ (atSkew.take .a).marks 0, a ≠ b :=
  ⟨by decide +kernel, by decide +kernel, by decide +kernel, 5, by decide +kernel, 7, by decide +kernel, by decide⟩

/-- PostingReports: a take that is done, and one that stopped. -/
theorem test_hyp_postingReports : ∀ x ∈ [0, 7],
    let d := inState 5 live { status := x };
    d.Mirrors ∧ d.takeState .a = 5 ∧ (d.take .a).ladder = none ∧ (d.take .a).retire = [] ∧
      (d.take .a).cmd.resultAddr + 320 ≤ localSpace ∧ (d.take .a).status = x := by
  unfold Dev.Mirrors; decide +kernel

/-- ReelsCaptured: an area at 0x9000, the capture to begin and to end, unsealed, without its key and sealed. -/
def capDev (x sl : Bool) (key : Option ReelKey) : Dev :=
  { at1 (mb (.tile 0)) 0 [] { withheld := some (1, 0), usesDrbg := sl, cs := { reels := [(0x9000, 0x1000)] } } tileDev with
    reelA := { capturing := x, key := key } }

theorem test_hyp_reelsCaptured : ∀ x ∈ [false, true], ∀ y ∈ [(false, none), (true, none), (true, some ({} : ReelKey))],
    let d := capDev x y.1 y.2;
    d.running .a = true ∧ (d.take .a).stops.lost = false ∧ (d.take .a).withheld = some (1, 0) ∧ ((d.take .a).cs.reels.getD 0 (0, 0)).1 = 0x9000 ∧
      (d.reel .a).capturing = x ∧ ((d.take .a).usesDrbg || d.rdBool (.reel 0) 0x100 4) = y.1 ∧ (d.reel .a).key = y.2 ∧
      (∀ k ∈ y.2, k.used < 2 ^ 32) := by
  decide +kernel

/-- The same with data lost during the capture. -/
def capLost : Dev := (capDev true false none).modTake .a fun t => { t with stops := { t.stops with lost := true } }
theorem test_hyp_reelsCaptured_lost : capLost.running .a = true ∧ (capLost.take .a).withheld = some (1, 0) ∧
    (capLost.reel .a).capturing = true ∧ (capLost.take .a).stops.lost = true := by
  decide +kernel

theorem test_hyp_reelsCaptured_length :
    0x9000 + ((capDev true false none).reelBytes .a 1 none).length ≤ localSpace := by
  decide +kernel

/-! ### Mesh, arbiters, scratchpads, vaults -/

/-- The router N(3,2) in a take of port A, period 2: in slot 1 outputs 2 and 5 take what comes from port 1. -/
def meshDev : Dev :=
  (((at1 (mb (.tile 0)) 0 [] { cs := { blocks := [(0x20, 16 * 3 + 2)] } } tileDev).wr (.router 3 2) 0x10C 0 2).wr
    (.slot 3 2) 0x104 3 1).wr (.slot 3 2) 0x104 12 1

def sound (payload side : Nat) : MeshIn := ⟨1, payload, putBits side 32 16 (hopCrc payload side), none⟩

/-- FlitsForwarded: each virtual channel in slot 1, and slot 0, which names no output. -/
theorem test_hyp_flitsForwarded : ∀ vc ∈ [0, 1, 2], ∀ beat ∈ [6, 7],
    let d := meshDev; let x := sound 0x55AA vc;
    bit (portsPresent 3 2) (x.port - 1) = true ∧ x.payload < 2 ^ 1024 ∧ tget [] d.held (nodeId 3 2) = [] ∧ bit (d.rd (.router 3 2) 0x104 1) (x.port - 1) = false ∧
      hopOk x.payload x.side = true ∧ d.rd (.router 3 2) 0x024 0 = 0 ∧ d.tableOf 3 2 = some (.a, 2) ∧
      bits (d.slotWord 3 2 (beat % 2)) 15 3 = 0 ∧ vc = bits x.side 0 3 ∧
      ((List.range 5).map (· + 1)).filter (fun o => slotOut (d.slotWord 3 2 (beat % 2)) o = x.port) =
        (if beat = 6 then [] else [2, 5]) := by
  decide +kernel

/-- FlitsForwarded: a service flit to the east in a slot that leaves that output free, and in one that takes it. -/
theorem test_hyp_flitsForwarded_service : ∀ beat ∈ [6, 7],
    let d := meshDev; let x := sound 0x55AA (4 + nodeId 15 2 * 2 ^ 3);
    bit (portsPresent 3 2) (x.port - 1) = true ∧ hopOk x.payload x.side = true ∧ bits x.side 0 3 = 4 ∧
      serviceOut 3 2 (bits x.side 3 8) = 2 ∧ d.hasCredit 3 2 2 = true ∧ d.tableOf 3 2 = some (.a, 2) ∧
      (slotOut (d.slotWord 3 2 (beat % 2)) 2 = 0 ↔ beat = 6) := by
  decide +kernel

/-- A port of an arbiter with a holder, of a transfer of 8 that began at beat 10, and the requests that wait. -/
def arbDev (i q : Nat) (h : Option ArbHold) (ws : List ArbReq) : Dev :=
  { live with arbs := tput [] (8 * i + q) { waiting := ws, holder := h } }

/-- ArbitersGrant: an idle port; one held, to the end, to a burst limit of 4, revocable, and before its first beat, with
and without requests that wait. -/
theorem test_hyp_arbitersGrant : ∀ a ∈ [ArbAt.mk 0 7, ArbAt.mk 67 0], ∀ ws ∈ [[], [⟨5, 3, 3, 2⟩, ArbReq.mk 2 1 1 4]],
    let h : ArbHold := ⟨6, 8, 8, 10⟩; let h := if a.i = 0 then { h with req := 8 } else h;
    let d := arbDev a.i a.q (some h) ws; let d' := d.wr a.pg (0x240 + 4 * h.req) 0 4;
    let r := ((d.wr a.pg 0x108 0 31).wr a.pg (0x200 + 4 * 2) 0 9).wr a.pg (0x200 + 4 * h.req) 0 3;
    a.ok = true ∧ (arbClass a.i 1).isSome = true ∧ 4 ≤ arbMax a.i ∧ (∀ y ∈ ws, y.req ≠ 1) ∧
      ((arbDev a.i a.q none []).arb a).holder = none ∧ ((arbDev a.i a.q none []).arb a).waiting = [] ∧
      (d.arb a).holder = some h ∧ h.req ≠ 1 ∧ (d.arb a).waiting = ws ∧ d.arbLimit a h = h.left ∧ 17 + 1 = h.first + h.left ∧
      h.first ≤ 13 ∧ d'.arbLimit a h ≤ 13 + 1 - h.first ∧ 13 + 1 - h.first < h.left ∧ 12 + 1 - h.first < h.left ∧
      (arbClass a.i h.req).all (fun cl => bit (r.rd a.pg 0x108 0) cl) = true ∧ (arbClass a.i h.req).isSome = true ∧
      h.first ≤ 12 ∧ (ws ≠ [] → ∃ y ∈ ws, r.rd a.pg (0x200 + 4 * h.req) 0 < r.rd a.pg (0x200 + 4 * y.req) 0) ∧
      (a.i = 67 → d.arbAsleep a h.req = false ∧ (d.wr (.pump 30) 0x104 1 1).arbAsleep a h.req = true) := by
  decide +kernel


/-- Is an owner write of a host refused? -/
def ownerNo (d : Dev) (p : Port) (c b v : Nat) : Bool :=
  let x := bits v 0 3
  decide (5 < x) || [1, 5].contains x || [1, 5].contains (d.bankField c b 4 0) ||
    (d.bankField c b 4 16 == 1 && [1, 5].contains (d.bankField c b 0 0)) || (x == 3 && p != .a) ||
    (x == 4 && p != .b) || (x == 2 && d.owner (.pump (bits v 8 5)) != d.owner (bankBlock c b))

/-- BanksChangeHands: the first and the last bank of a column, of host A; taken; in a column of partition B. -/
theorem test_hyp_banksChangeHands : ∀ x ∈ [(0, 0), (14, 159)],
    let d := live; let c := x.1; let b := x.2; let t := d.wr (.vc c) (0x1004 + 16 * b) 0 1;
    let z := d.wr (.vc c) 0x00C 0 1;
    d.Mirrors ∧ b < banksOf c ∧ d.canWrite (.host .a) (.vc c) (0x1000 + 16 * b) ∧
      d.canWrite (.host .a) (.vc c) (0x1008 + 16 * b) ∧ t.canWrite (.host .a) (.vc c) (0x1000 + 16 * b) ∧
      t.canWrite (.host .a) (.vc c) (0x1008 + 16 * b) ∧ t.bankField c b 4 0 = 1 ∧
      (∀ v ∈ [0, 2 + 31 * 2 ^ 8, 3], ownerNo d .a c b v = false) ∧ (∀ v ∈ [1, 4, 5, 6, 7], ownerNo d .a c b v = true) ∧
      ownerNo t .a c b 0 = true ∧ bit (t.rd (.vc c) 0x01C 0) 7 = false ∧
      z.hostUp .a ∧ z.owner (.vc c) ≠ Port.a.idx ∧ z.owner (.vc c) ≠ 2 ∧ d.powered = true := by
  unfold Dev.Mirrors Dev.canWrite Dev.hostUp; dsimp only; decide +kernel

/-- BanksChangeHands: in a handover, with and without a merge; waking from OFF; neither. -/
theorem test_hyp_banksChangeHands_ends : ∀ x ∈ [(0, 0), (14, 159)],
    let d := live; let c := x.1; let b := x.2; let m : Merge := ⟨(bankSpan c b).1, [7]⟩;
    let u := d.wr (.vc c) (0x1004 + 16 * b) 16 1; let o := d.wr (.vc c) (0x1008 + 16 * b) 4 2;
    u.bankField c b 4 16 = 1 ∧ u.rd (.vc c) 0x024 0 = 0 ∧ d.bankField c b 4 16 ≠ 1 ∧
      o.bankField c b 8 4 = 2 ∧ o.bankField c b 8 4 ≠ o.bankField c b 8 0 ∧
      d.bankField c b 8 4 = d.bankField c b 8 0 ∧ d.bankField c b 8 9 = 0 ∧ o.bankField c b 8 0 ≠ 2 ∧
      findKey (bankKey (c, b)) o.banks.merges = none ∧ findKey (bankKey (c, b)) u.banks.waiting = none ∧
      findKey (bankKey (c, b)) (tput [] (bankKey (c, b)) m) = some m ∧ m.addr + m.data.length ≤ localSpace := by
  decide +kernel

/-- BanksChangeHands: a lock of a vault and one of a bank that an activity holds. -/
theorem test_hyp_banksChangeHands_lock : ∀ T ∈ [vaultLock (32 * 15 + 31), bankLock 14 159], ∀ h ∈ [0, 1, 5],
    (live.setLock T h).lock T = h ∧ 31 < 32 ∧ 159 < banksOf 14 := by
  decide +kernel

/-- A bank of the pump engine 31, on; the same not on; of no owner. -/
def bankDev (c b own : Nat) : Dev := (live.wr (.vc c) (0x1004 + 16 * b) 0 own).wr (.vc c) (0x1004 + 16 * b) 8 31

/-- BanksServe: the first and the last bank of a column and its last line, in each view; a merge in it; its transparent
test. -/
theorem test_hyp_banksServe : ∀ x ∈ [(0, 0), (14, 159)], ∀ vw ∈ [(0, 0), (1, 0x400000000), (2, 0x800000000)],
    let c := x.1; let b := x.2; let d := bankDev c b 2; let a := (bankSpan c b).1 + (bankSpan c b).2 - 64;
    let n := bankDev c b 0; let t := ((n.wr (.vc c) 0x100 2 1).wr (.vc c) 0x104 10 b);
    sramView (a + vw.2) = (vw.1, a) ∧ (bankOfAddr a).map (·.2) = some x ∧ (bankOfAddr (a + 64 - 1)).map (·.2) = some x ∧
      whoCode (.pump 31) = some (2, 31) ∧ d.bankField c b 4 16 = 0 ∧
      findKey (bankKey (c, b)) d.banks.merges = none ∧ d.rd (.vc c) 0x024 0 = 0 ∧
      ownerIs (d.bankField c b 4 0) (d.bankField c b 4 8) (2, 31) = true ∧ d.bankOn c b = true ∧ a % 8 = 0 ∧
      ownerIs (n.bankField c b 4 0) (n.bankField c b 4 8) (2, 31) = false ∧ n.bankField c b 4 0 ≠ 1 ∧
      t.rdBool (.vc c) 0x100 2 = true ∧ t.rd (.vc c) 0x104 10 = b ∧ t.testable c b = true ∧
      t.lock (bankLock c b) = 0 ∧ t.rd (.vc c) 0x024 0 = 0 ∧ a + 64 ≤ localSpace ∧
      (let m : Merge := ⟨a, [7]⟩
       findKey (bankKey (c, b)) (tput [] (bankKey (c, b)) m) = some m ∧ findKey (bankKey (c, b)) d.banks.waiting = none) := by
  decide +kernel

/-- A vault of port A that has been cleared. -/
def vaultDev (v : Nat) : Dev :=
  (live.wr (vaultPage v) (0x20C + 16 * (v % 32)) 0 0).wr (vaultPage v) (0x204 + 16 * (v % 32)) 0 0

/-- VaultsServe: the first and the last vault at their last line, for port A's window and for its take; a beat a
scheduled access has taken; being cleared; a member that a refresh delays; the scrub on. -/
theorem test_hyp_vaultsServe : ∀ v ∈ [0, 511],
    let d := vaultDev v; let k := d.wr (vaultPage v) (0x204 + 16 * (v % 32)) 0 1; let a := (v + 1) * 2 ^ 27 - 64;
    let r := at1 (mb (.tile 0)) 0 [] {} d; let b := d.wr (vaultPage v) 0x100 1 1;
    d.Mirrors ∧ a / 2 ^ 27 = v ∧ a % 64 + 64 ≤ 64 ∧ d.rd (vaultPage v) 0x024 0 = 0 ∧ d.vaultField v 4 0 = 0 ∧
      d.vaultField v 0xC 0 ≠ 3 ∧ d.whoPart (.window .a) = some (d.vaultField v 0xC 0) ∧ d.guarded v = false ∧
      (∀ w ∈ [false, true], r.vaultRivals ⟨0, 0, w, a, []⟩ = []) ∧ d.beatTaken v 0 = false ∧
      k.Mirrors ∧ k.vaultField v 4 0 = 1 ∧ r.running .a = true ∧ r.member .a 0 = some (mb (.tile 0)) ∧ b.Mirrors ∧
      b.rdBool (vaultPage v) 0x100 1 = true ∧ b.vaultField v 4 0 = 0 ∧ b.lock (vaultLock v) = 0 ∧
      d.canWrite (.host .a) (vaultPage v) (0x200 + 16 * (v % 32)) ∧ d.vaultField v 0 0 ≠ 1 := by
  unfold Dev.Mirrors Dev.canWrite Dev.hostUp; dsimp only; decide +kernel

/-- Member 0 of port A's take has used vault v's port in beat 9. -/
def busyVault (v : Nat) : Dev :=
  let d := at1 (mb (.tile 0)) 0 [mb (.vc (v / 32)), mb (.tile 1)]
    { cs := { blocks := [(0x60, v / 32)] } } (vaultDev v)
  { d with banks := { d.banks with portBeat := tput [] v ⟨9, 0, false, v * 2 ^ 27, []⟩ } }

theorem test_hyp_vaultsServe_busy : ∀ v ∈ [0, 511],
    let d := busyVault v; let x : VaultUse := ⟨9, 1, false, v * 2 ^ 27 + 64, []⟩
    d.running .a = true ∧ (d.member .a 1).isSome ∧ ∃ y ∈ d.vaultRivals x, x.before y = false := by
  decide +kernel

/-! ### Wells, rings, engines -/

/-- Well of channel 2047 of engine 31: on, 16 entries at 0x10000, ring 3; the ring on, 16 entries at 0x20000. -/
def wellDev : Dev :=
  let w := Page.well (wellOf 31 2047); let r := cringOf .a 3;
  let d := ((((live.wr w 0x08 23 1).wr w 0x08 0 4).wr w 0x08 12 3).wr w 0x00 6 (0x10000 / 64)).wr w 0x0C 16 5
  (((d.wr r 0x08 8 1).wr r 0x08 0 4).wr r 0x00 6 (0x20000 / 64)).wr r 0x10 1 1

/-- The same with a halted program. -/
def haltDev : Dev := wellDev.setChan 31 2047 { halted := some { ch := 2047, entry := 0 } }

/-- WellsAndRingsFollow: a well and a ring, off and on; a halted program. -/
theorem test_hyp_wellsAndRingsFollow : ∀ d ∈ [live, wellDev, haltDev],
    let w := wellOf 31 2047; let r := cringOf .a 3;
    d.Mirrors ∧ d.pumpPort 31 = some .a ∧ d.canWrite (.host .a) (.well w) 0x08 ∧ d.canWrite (.host .a) (.well w) 0x14 ∧
      d.canWrite (.host .a) r 0x08 ∧ d.canWrite (.host .a) r 0x0C ∧ d.ringWaiters .a 3 = [] ∧ d.prog 31 = none := by
  unfold Dev.Mirrors Dev.canWrite Dev.hostUp; dsimp only; decide +kernel

theorem test_hyp_wellsAndRingsFollow_forms :
    let w := wellOf 31 2047; let r := cringOf .a 3;
    bits 15 0 16 < wellDev.wellSize w ∧ wordReserved (.well w) 0x08 (4 + 7 * 2 ^ 8 + 3 * 2 ^ 12 + 2 ^ 23) = false ∧
      live.wellOn w = false ∧ wellDev.wellOn w = true ∧ wordReserved r 0x08 (4 + 2 ^ 8) = false ∧
      live.rdBool r 0x08 8 = false ∧ bit (4 + 2 ^ 8) 8 = true ∧ (wellDev.chan 31 2047).halted = none ∧
      (haltDev.chan 31 2047).halted = some { ch := 2047, entry := 0 } ∧ bit (wellDev.rd .wellHdr 0x01C 0) 4 = false := by
  decide +kernel

/-- A program at its first word, the words `ws` before END. -/
def progOf (ws : List Nat) : Prog :=
  { ch := 2047, entry := 0, words := ws ++ [iw 0x86 (2 ^ 112)], nwords := ws.length + 1, phase := .run }
def runs (g : Prog) (d : Dev := wellDev) : Dev := d.setProg 31 (some g)

/-- Each instruction of a program: operands in host memory, 100 bytes at addresses not a line's. -/
def progAt (op : Nat) : Prog := progOf <|
  if op = 0x83 then [iw 0x83 (2 + 2 ^ 32), iw 0x86 0]
  else if op = 0x84 then [iw 0x84 (5 + 2 ^ 16 + 2 ^ 64)]
  else if op = 0x85 then [iw 0x85 (4095 + 9 * 2 ^ 16 + 2 ^ 112)]
  else if op = 0x81 then [iw 0x81 (0x3021 + 100 * 2 ^ 80), 0x0102030405060708]
  else [iw op (0x3021 + 100 * 2 ^ 80), 0x5033]

theorem test_hyp_pumpInstructionsRun_start :
    let d := wellDev; d.Mirrors ∧ d.pumpPort 31 = some .a ∧ d.prog 31 = none ∧ d.rdBool (.pump 31) 0x014 0 = true ∧
      d.chanPick 31 = some 2047 ∧ (d.chan 31 2047).resumed = none ∧ (d.pump 31).held = [] ∧ (d.pump 31).ahead = none := by
  unfold Dev.Mirrors; decide +kernel

/-- A program that was halted and resumed. -/
def resumedDev : Dev := wellDev.setChan 31 2047 { resumed := some (progAt 0x84) }

theorem test_hyp_pumpInstructionsRun_resumed :
    let d := resumedDev; let g := progAt 0x84; let h := { g with stop := false, fetch := [], phase := .run };
    d.Mirrors ∧ d.prog 31 = none ∧ (d.pump 31).held = [] ∧ d.rdBool (.pump 31) 0x014 0 = true ∧ d.chanPick 31 = some 2047 ∧
      (d.chan 31 2047).resumed = some g ∧ g.words ≠ [] ∧ g.loops = [] ∧ h.pc < h.nwords ∧ d.badWord 31 h = false := by
  unfold Dev.Mirrors; decide +kernel

theorem test_hyp_pumpInstructionsRun_moves : ∀ op ∈ [0x80, 0x81, 0x82],
    let g := progAt op; let d := runs g; let x := g.args;
    d.Mirrors ∧ d.atOp 31 op = some g ∧ (op ≠ 0x81 → x.srcSpace = 0) ∧ x.dstSpace = 0 ∧ 1 ≤ x.len ∧
      x.dst + x.len ≤ 2 ^ 64 ∧ d.rd (.pump 31) 0x024 0 = 0 ∧ g.loops = [] ∧ g.stop = false ∧ g.pc + 2 < g.nwords ∧
      d.badWord 31 { g with pc := g.pc + 2 } = false := by
  unfold Dev.Mirrors; decide +kernel

theorem test_hyp_pumpInstructionsRun_others : ∀ op ∈ [0x83, 0x84, 0x85],
    let g := progAt op; let d := runs g; let w := g.word g.pc;
    d.Mirrors ∧ d.pumpPort 31 = some .a ∧ d.atOp 31 op = some g ∧ g.loops = [] ∧ g.stop = false ∧ g.pc + 1 < g.nwords ∧
      (op = 0x83 → 1 ≤ bits w 32 16 ∧ d.badWord 31 { g with pc := g.pc + 1, loops := [⟨1, 1, 2, 0, 0, 0⟩] } = false) ∧
      (op = 0x85 → g.confirmReads = [] ∧ bits w 112 4 = 1 ∧ bits w 0 16 < 4096 ∧
        d.badWord 31 { g with pc := g.pc + 1, fetch := [], phase := .run } = false) := by
  unfold Dev.Mirrors; decide +kernel

/-- A WAIT for semaphore 5, which holds `v`. -/
def waits (v : Nat) : Dev := runs { progAt 0x84 with phase := .cond 0 } (wellDev.wr (.sem 5) 0 0 v)

theorem test_hyp_pumpInstructionsRun_waiting : ∀ v ∈ [0, 1],
    let d := waits v; let g := { progAt 0x84 with phase := .cond 0 };
    d.Mirrors ∧ d.prog 31 = some g ∧ d.waitHolds 31 g 0 = (v == 1) ∧ bits (g.word g.pc) 64 16 ≠ 0 ∧ g.ch < 2048 ∧
      d.cringFull (cringOf .a (d.rd (.well (wellOf 31 g.ch)) 0x08 12)) = false ∧ g.loops = [] ∧ g.stop = false ∧
      g.pc + 1 < g.nwords ∧ d.badWord 31 { g with pc := g.pc + 1, fetch := [], phase := .run } = false := by
  unfold Dev.Mirrors; decide +kernel

/-- PumpProgramsEnd: END with and without `quiet`, an inline program at its end, a fault, data for one read of two. -/
theorem test_hyp_pumpProgramsEnd : ∀ g ∈ [progOf [], { progOf [] with words := [iw 0x86 0] },
      { progOf [] with inline := true, pc := 1 },
      { progAt 0x80 with phase := .data, fetch := [⟨0, 0, 0x3000, 64, none, false⟩, ⟨0, 0, 0x3040, 64, none, false⟩] }],
    let d := runs g; let ring := cringOf .a (d.rd (.well (wellOf 31 g.ch)) 0x08 12);
    d.Mirrors ∧ d.pumpPort 31 = some .a ∧ d.prog 31 = some g ∧ g.ch < 2048 ∧ d.cringFull ring = false ∧ g.stop = false ∧
      g.confirmReads = [] ∧ (g.fetch = [] → g.phase = .run ∧ (g.atEnd = true ∨ g.op = 0x86)) ∧
      (g.fetch ≠ [] → g.phase = .data ∧ g.fetch[0]? = some ⟨0, 0, 0x3000, 64, none, false⟩ ∧
        ∃ y ∈ g.fetch.eraseIdx 0, y.data = none) := by
  unfold Dev.Mirrors; decide +kernel

/-- An END whose confirm asks for the last line it wrote. -/
def confirmG : Prog := { progOf [] with words := [iw 0x86 0], lastHost := some 0x3000, confirm := 1 }

/-- PumpProgramsEnd: a confirming END; a full ring; a completion that nothing waits for. -/
theorem test_hyp_pumpProgramsEnd_waits :
    (confirmG.confirmReads ≠ [] ∧ (∀ y ∈ confirmG.confirmReads, y.space = 0) ∧ confirmG.phase = .run ∧ confirmG.op = 0x86) ∧
    (let d := runs (progOf []) (wellDev.wr (cringOf .a 3) 0x08 8 0); d.cringFull (cringOf .a 3) = true) ∧
    ((progOf []).fetch[0]?).filter (·.data.isNone) = none := by
  decide +kernel

/-! ### Registers, windows and probes -/

/-- RegisterWritesLand: ERR_MASK of three blocks; a reserved code; the sideband's page and another; port B at a page of
port A. -/
theorem test_hyp_registerWritesLand :
    (∀ pg ∈ [Page.tile 143, .vc 15, .hp 0], live.Mirrors ∧ pageOf (pg.base + 0x01C) = some (pg, 0x01C) ∧
      (pg.base + 0x01C) % 4 = 0 ∧ pg.base + 0x01C + 4 ≤ 2 ^ 26 ∧ pg.hasHeader = true ∧ live.canWrite (.host .a) pg 0x01C) ∧
    (pageOf ((Page.tile 0).base + 0x12C) = some (.tile 0, 0x12C) ∧ live.canWrite (.host .a) (.tile 0) 0x12C ∧
      wordReserved (.tile 0) 0x12C 3 = true ∧ codeHasOutcome (.tile 0) 0x12C = false) ∧
    (live.powered = true ∧ sidebandMay (.tile 0) 0x12C = false) ∧
    (live.hostUp .b ∧ live.gate (.host .b) ((Page.tile 0).base + 0x12C) (.tile 0) 0x12C =
      .refused .b 0x21 (((Page.tile 0).base + 0x12C) / 4)) := by
  unfold Dev.Mirrors Dev.canWrite Dev.hostUp; dsimp only; decide +kernel

/-- CountersAndErrorsClear: a counter of a tile, HP_REFUSE_ADDR's `valid`, and the header of a tile and of a link. -/
theorem test_hyp_countersAndErrorsClear :
    (live.Mirrors ∧ live.hostUp .a) ∧
    (∀ x ∈ [(Page.tile 143, 0x040), (.hp 0, 0x11C)], pageOf (x.1.base + x.2) = some x ∧ (x.1.base + x.2) % 4 = 0 ∧
      x.1.base + x.2 + 4 ≤ 2 ^ 26 ∧ live.foreign .a x.1 = false ∧ live.gone x.1 x.2 = false) ∧
    (∃ f, fieldsAt (.tile 143) 0x040 = [f] ∧ f.width = 64 ∧ f.lo = 0 ∧ f.acc = .ro ∧
      regLegal (fieldKey ((Page.tile 143).base + (0x040 + 4)) 0) (live.rd (.tile 143) 0x040 0 / 2 ^ 32) = true) ∧
    (∃ f ∈ fieldsAt (.hp 0) 0x11C, f.acc = .rc ∧ regLegal (fieldKey ((Page.hp 0).base + 0x11C) f.lo) 0 = true) := by
  refine ⟨by unfold Dev.Mirrors Dev.hostUp; decide +kernel, by decide +kernel, ⟨_, rfl, rfl, rfl, rfl, by decide +kernel⟩, ?_⟩
  exact ⟨_, List.mem_of_find?_eq_some (p := fun f => f.acc == .rc) rfl, rfl, by decide +kernel⟩

theorem test_hyp_countersAndErrorsClear_blocks : ∀ x ∈ [(0x0030, 143, Page.tile 143), (0x0060, 15, .vc 15)],
    let pg := x.2.2; let y := (live.cntClearAt pg).getD (0, 0);
    pageById x.1 x.2.1 = some pg ∧ pg.hasHeader = true ∧ live.cntClearAt pg = some y ∧ live.canWrite (.host .a) pg y.1 ∧
      wordReserved pg y.1 (y.2 % 2 ^ 32) = false ∧ live.canWrite (.host .a) pg 0x010 ∧ live.canWrite (.host .a) pg 0x018 ∧
      live.canWrite (.host .a) pg 0x024 ∧ (pg.isEngine = true ∨ pg = .vc 15) := by
  unfold Dev.canWrite Dev.hostUp; dsimp only; decide +kernel

/-- Port A's window of 1 GiB at 0 over a vault of its own. -/
def winDev : Dev := (vaultDev 0).wr (.hp 0) 0x104 13 30

/-- The same, half a cell's register in mode `m`, debug access on. -/
def dbgDev (m : Nat) : Dev :=
  ((live.wr (.me 3) 0x100 2 1).wr (.me 3) 0x100 1 m).wr (.me 3) 0x124 16 257

/-- WindowsAndProbes: bytes across a line; a probe that ends well and one that does not; debug access off and on. -/
theorem test_hyp_windowsAndProbes :
    (let d := winDev; d.Mirrors ∧ d.hostUp .a ∧ d.winBase .a + 60 = 60 ∧ 60 + 9 ≤ d.winSize .a ∧
      (∀ x ∈ (List.range 9).map (· + 60), d.vaultField (x / 2 ^ 27) 4 0 ≠ 1 ∧ d.vaultField (x / 2 ^ 27) 0xC 0 = Port.a.idx ∧
        d.guarded (x / 2 ^ 27) = false ∧ d.rd (vaultPage (x / 2 ^ 27)) 0x024 0 = 0)) ∧
    (live.Mirrors ∧ live.canWrite (.host .a) (.gen 0) 0x11C ∧ live.rdBool (.gen 0) 0x12C 0 = false ∧
      (probeEval 0 0 0 0 0 0 0 0 0).isSome = true ∧ probeEval 0 0 0 0 0 0 7 0 0 = none) ∧
    findKey Port.a.idx (tput [] 0 (5, 6) : Tbl (Nat × Nat)) = some (5, 6) ∧
    (∀ m ∈ [0, 1], let d := dbgDev m;
      d.Mirrors ∧ d.foreign .a (.me 3) = false ∧ d.gone (.me 3) 0x128 = false ∧ d.rdBool (.me 3) 0x100 2 = true ∧
      d.halfMode 3 = (m == 1) ∧ (d.acc 3 m (d.rd (.me 3) 0x120 0)).spilled = false ∧
      (d.acc 3 m (d.rd (.me 3) 0x120 0)).acc < 2) ∧ live.rdBool (.me 3) 0x100 2 = false := by
  unfold Dev.Mirrors Dev.canWrite Dev.hostUp; dsimp only; decide +kernel

/-! ### Reels, repair, plans, the sluice, the entropy source -/

/-- Port A at host level 3, the entropy source serving, a take loaded with no tiles, a reel of no records at 0x600. -/
def reelDev (crc serves : Nat) : Dev :=
  let d := ((((inState 3 live).wr (.mbox 0) 0x158 0 3).wr .entCell 0x104 8 serves).wr .ident 0x100 7 serves).wr .entCell
    0x110 4 1
  let d := d.wr (.reel 0) 0x108 6 (0x600 / 64)
  [(0, 4, 0x4C524B49), (4, 1, 4), (8, 8, 256), (0x10, 4, crc), (0x80, 2, 0x101)].foldl
    (fun d (w : Nat × Nat × Nat) => d.st (0x600 + w.1) w.2.1 w.2.2) d

/-- ReelCommandsRun: a reel whose checks pass and one whose CRC is wrong; a source that serves nothing; a command that
is over. -/
theorem test_hyp_reelCommandsRun : ∀ crc ∈ [0, 3458369310],
    let d := reelDev crc 1; let n := reelDev crc 0; let b := d.wr (.reel 0) 0x104 0 1;
    d.Mirrors ∧ n.Mirrors ∧ d.canWrite (.host .a) (.reel 0) 0x100 ∧ d.rdBool (.reel 0) 0x104 0 = false ∧ 2 ≤ d.rd (mboxPage .a) 0x158 0 ∧
      ((d.reached .a).reelCheck .a (d.reelAddr .a)).1 = (if crc = 0 then 0x50 else 0) ∧ d.rdBool .entCell 0x104 8 = true ∧
      d.keyReady .a = true ∧ n.rdBool .entCell 0x104 8 = false ∧ b.rdBool (.reel 0) 0x104 0 = true ∧
      (b.reel .a).waits = false ∧ (b.reel .a).result < 256 ∧ (b.reel .a).record < 2 ^ 16 := by
  unfold Dev.Mirrors Dev.canWrite Dev.hostUp; dsimp only; decide +kernel

/-- Repairs of tile 143, in no take; jobs in progress; site 0 failed and site 8 its spare. -/
def repDev (cmd : Nat) : Dev :=
  { (live.wr (.rep 0) 0x108 16 143).wr (.rep 0) 0x108 0 0x30 with
    ctl := { live.ctl with repJob := tput [] 0 (cmd, 0x30, 143), substQ := [0] },
    record := { ModRec.shipped with failed := [0] } }

theorem test_hyp_repairsRun : ∀ cmd ∈ [1, 2],
    let d := repDev cmd; let b := d.wr (.tile 143) 0x00C 0 1;
    d.Mirrors ∧ d.canWrite (.host .a) (.rep 0) 0x100 ∧ d.rdBool (.rep 0) 0x104 0 = false ∧
      143 = d.rd (.rep 0) 0x108 16 ∧ 0x30 = d.rd (.rep 0) 0x108 0 ∧ pageById 0x30 143 = some (.tile 143) ∧
      d.owns .a (.tile 143) = true ∧ d.rd (.tile 143) 0x014 0 ≠ 0 ∧ d.takeLists (.tile 143) = false ∧
      d.inTake (.tile 143) = false ∧ b.owns .a (.tile 143) = false ∧
      findKey Port.a.idx d.ctl.repJob = some (cmd, 0x30, 143) ∧ d.ctl.subst = none ∧ d.ctl.substQ = [0] ∧
      d.owner (.tile 0) = Port.a.idx ∧ d.takeState .a ≠ 4 ∧ d.takeState .a ≠ 5 ∧ d.bestSpare 0 = some 8 := by
  unfold Dev.Mirrors Dev.canWrite Dev.hostUp; dsimp only; decide +kernel

/-- PlansAndIdentity: the plan staged as it is in force, and one with a column in both partitions; a take loaded. -/
theorem test_hyp_plansAndIdentity :
    let d := live; let b := (d.wr .part 0x100 0 1).wr .part 0x100 16 1;
    d.Mirrors ∧ b.Mirrors ∧ d.canWrite (.host .a) .part 0x1C0 ∧ d.canWrite .sideband .part 0x1C0 ∧
      b.canWrite (.host .a) .part 0x1C0 ∧ d.ctl.plan = none ∧ b.ctl.plan = none ∧
      d.planCheck (d.planWords 0x180) = 0 ∧ b.planCheck (b.planWords 0x100) ≠ 0 := by
  unfold Dev.Mirrors Dev.canWrite Dev.hostUp; dsimp only; decide +kernel

theorem test_hyp_plansAndIdentity_rest :
    let d := live; let t := inState 3 live; let q := { d with ctl := { d.ctl with plan := some (d.planWords 0x100) } };
    q.ctl.plan = some (q.planWords 0x100) ∧ d.canWrite (.host .a) (mboxPage .a) 0x154 ∧ d.takeState .a = 0 ∧
      ifaceLevel 1 3 (d.rd (mboxPage .a) 0x158 8) (d.rd (mboxPage .a) 0x158 12) = some 3 ∧
      d.canWrite (.host .a) .ident 0x10C ∧ t.canWrite (.host .a) .ident 0x10C ∧
      wordReserved .ident 0x10C (5 + 2 ^ 16) = false ∧ t.takeState .a ≠ 0 ∧ t.Mirrors := by
  unfold Dev.Mirrors Dev.canWrite Dev.hostUp; dsimp only; decide +kernel

/-- Tile 0 in a running take with a ceiling of 100, its last estimate `e`, its own level `l`. -/
def sluDev (e l : Nat) : Dev :=
  let d := at1 (mb (.tile 0)) 0 [] { cs := { blocks := [(0x30, 0)], ceilings := [[100]] } } tileDev
  { d with sluice := { level := tput [] (Page.tile 0).base l, power := tput [] (Page.tile 0).base e } }

/-- SluiceFollows: writers at their registers; a block below its ceiling, above it, at level 31. -/
theorem test_hyp_sluiceFollows :
    (live.canWrite (.host .a) .sluice 0x108 ∧ live.canWrite (.host .b) .sluice 0x10C ∧
      live.canWrite .sideband .sluice 0x110 ∧ live.canWrite (.host .a) .sluice 0x118 ∧
      live.canWrite .sideband .sluice 0x128) ∧
    wordReserved .sluice 0x108 2000 = false ∧ wordReserved .sluice 0x108 3 = true ∧ vcoreOk 850 = true ∧
    live.powered = true ∧ (List.replicate 16 120).length = 16 ∧ ∀ t ∈ List.replicate 16 120, t ≤ 120 := by
  unfold Dev.canWrite Dev.hostUp; dsimp only; decide +kernel

theorem test_hyp_sluiceFollows_blocks : ∀ x ∈ [(80, 2), (200, 31)],
    let d := sluDev x.1 x.2; let c := (d.wr .sluice 0x104 3 1).wr .sluice 0x104 2 1;
    d.Mirrors ∧ c.Mirrors ∧ pageById 0x30 0 = some (.tile 0) ∧ (Page.tile 0).throttled = true ∧
      d.ceiling (.tile 0) = some 100 ∧ d.sluice.core ≤ 31 ∧
      (x.2 = 2 → d.level (.tile 0) < 31 ∧ d.power (.tile 0) * 10 < 100 * 9 ∧ 2 ≤ d.ownLevel (.tile 0)) ∧
      (x.2 = 31 → 100 < d.power (.tile 0) ∧ d.level (.tile 0) = 31 ∧ d.rdBool .sluice 0x104 3 = false) ∧
      c.rdBool .sluice 0x104 3 = true ∧ c.rdBool .sluice 0x104 2 = true ∧ 100 * 10 < c.rd .sluice 0x114 16 * 9 ∧
      600 + 50 < c.rd .sluice 0x128 0 ∧ c.rd .sluice 0x128 0 ≤ 700 + 50 := by
  unfold Dev.Mirrors; decide +kernel

/-- Samples of a cell that pass its start-up test, and samples that repeat too often. -/
def samples (ok : Bool) : List Bool := (List.range 1000).map fun i => ok && i % 2 == 0

/-- A request of 64 bytes to address 0x40, and its ring: on, of 16 entries, waiting, its instance ready. -/
def entRequest : Nat := 0x40 + 64 * 2 ^ 64
def entDev (i : Nat) : Dev :=
  let e := Page.entPort 0;
  let d := (((((live.wr (.mbox 0) 0x158 0 3).wr e (0x208 + 32 * i) 0 4).wr e (0x208 + 32 * i) 4 1).wr e (0x208 + 32 * i) 6 1).wr e
    (0x20C + 32 * i) 16 5).wr e (0x210 + 32 * i) 0 1
  { d with ent := { d.ent with drbg := tput [] i { key := List.replicate 32 7 } } }

/-- EntropyServes: cells under test; a ring off and on with a request; the first and the last of a port. -/
theorem test_hyp_entropyServes : ∀ i ∈ [0, 31],
    let d := live.wr (.mbox 0) 0x158 0 3; let e := entDev i; let v := 4 + 2 ^ 4 + 2 ^ 6;
    d.Mirrors ∧ d.hostUp .a ∧ (∀ c < 8, bit (d.rd .entCell 0x104 0) c = false) ∧ d.rdBool .entCell 0x104 9 = false ∧
      d.rd .entCell 0x024 0 = 0 ∧ d.canWrite (.host .a) (.entPort 0) (0x208 + 32 * i) ∧
      wordReserved (.entPort 0) (0x208 + 32 * i) v = false ∧ d.ringOn i = false ∧ bit v 6 = true ∧
      d.rd (mboxPage .a) 0x158 0 ≠ 1 ∧ e.Mirrors ∧ e.hostUp .a ∧ e.canWrite (.host .a) (.entPort 0) (0x20C + 32 * i) ∧
      15 < 2 ^ e.rd (.entPort 0) (0x208 + 32 * i) 0 ∧ d.gone (.entPort 0) 0x104 = false := by
  unfold Dev.Mirrors Dev.canWrite Dev.hostUp; dsimp only; decide +kernel

theorem test_hyp_entropyServes_requests :
    (∀ i ∈ [0, 31], let e := entDev i;
      entRequest < 2 ^ 256 ∧ e.ringOn i = true ∧ e.ringCfg i 4 = 1 ∧
      e.rd (.entPort 0) (0x20C + 32 * i) 0 ≠ e.rd (.entPort 0) (0x20C + 32 * i) 16 ∧ findKey i e.ent.reqs = none ∧
      entBad false entRequest = false ∧ bits entRequest 64 24 ≤ 65536 ∧ e.rdBool .entCell 0x104 11 = false ∧
      e.instState (64 + i) = 1 ∧ (tget {} e.ent.drbg i).key.length = 32) ∧
    (∀ ok ∈ [true, false], 1000 ≤ (samples ok).length ∧ startupFails (samples ok) = !ok) := by
  decide +kernel

/-! ### Firmware, power, the sideband, cages -/

/-- Slot B holds an image of version 2 and security version `svn`; a source of `n` bytes at 0x400. -/
def fwDev (svn n : Nat) : Dev :=
  let d := ((live.wr (.vc 0) 0x20C 0 0).wr .fw 0x110 0 n).wr .fw 0x108 6 (0x400 / 64)
  { d with ctl := { d.ctl with fwA := { valid := true, svn := 1 },
                               fwB := { valid := true, version := 2, svn := svn, low := 1, high := 4 } } }

/-- Held in stage 3 with no image that verifies: the boot ROM has taken `image` and writes it (R398). -/
def romDev (image : List Byte) : Dev :=
  let d : Dev := { pwr := { inRange := true, en := true, good := true } }
  let d := d.wr .fw 0x104 0 1
  { d with ctl := { d.ctl with fwA := {}, fwB := {}, fwJob := 1, fwImage := some image } }

/-- An image of 128 bytes with no body, version 3, security version 2, for host levels 1 to 4. -/
def smallImage : List Byte :=
  leBytes 4 0x57464B49 ++ leBytes 4 3 ++ leBytes 4 2 ++ leBytes 4 0 ++ leBytes 1 0x41 ++ leBytes 1 6 ++ List.replicate 110 0

/-- The same with an activation that has begun. -/
def fwActivating (prev : Option Nat) : Dev :=
  let d := ((fwDev 2 64).wr .fw 0x104 1 1).wr .cc 0x104 4 1
  { d with ctl := { d.ctl with fwNext := some 1, fwPrev := prev } }

/-- FirmwareRuns: a source of the greatest length and of one byte more; an image of the running one's security version,
a lower one, one for a loaded take of major version 4. -/
theorem test_hyp_firmwareRuns : ∀ x ∈ [(1, 2 ^ 24), (0, 2 ^ 24 + 1)],
    let d := fwDev x.1 x.2; let b := d.wr .fw 0x104 0 1;
    d.Mirrors ∧ d.fwRunning = 0 ∧ d.canWrite (.host .a) .fw 0x100 ∧ d.canWrite .sideband .fw 0x100 ∧
      d.rdBool .fw 0x104 0 = false ∧ d.rdBool .fw 0x104 1 = false ∧ d.rd .fw 0x110 0 = x.2 ∧ (d.fwSlot 1).valid = true ∧
      (∀ p ∈ [Port.a, .b], (d.fwSlot 1).low ≤ d.rd (mboxPage p) 0x158 0 ∧ d.rd (mboxPage p) 0x158 0 ≤ (d.fwSlot 1).high ∧
        (d.takeState p = 3 → bit (d.fwSlot 1).majors 4 = true)) ∧
      (d.fwSlot 1).svn = x.1 ∧ (d.fwSlot 0).svn = 1 ∧ b.Mirrors ∧ b.canWrite (.host .a) .fw 0x100 ∧
      b.rdBool .fw 0x104 0 = true ∧ d.powered = true := by
  unfold Dev.Mirrors Dev.canWrite Dev.hostUp; dsimp only; decide +kernel

/-- A WRITE in progress, from DRAM and from a PLDM message; a VERIFY in progress; activations. -/
theorem test_hyp_firmwareRuns_rest :
    (let d := fwDev 2 64; let w := { d with ctl := { d.ctl with fwJob := 1 } };
      let m := { w with ctl := { w.ctl with fwImage := some [7] } }; let v := { d with ctl := { d.ctl with fwJob := 2 } };
      w.Mirrors ∧ w.ctl.fwJob = 1 ∧ w.ctl.fwImage = none ∧ 64 * w.rd .fw 0x108 6 + 2 ^ 32 * w.rd .fw 0x10C 0 = 0x400 ∧
        w.dramOwned .a 0x400 (w.rd .fw 0x110 0) = true ∧ m.ctl.fwJob = 1 ∧ m.ctl.fwImage = some [7] ∧ v.ctl.fwJob = 2) ∧
    (let d := fwActivating none; let r := fwActivating (some 0);
      d.Mirrors ∧ d.canWrite (.host .a) .fw 0x100 ∧ d.rdBool .fw 0x104 0 = false ∧ d.rdBool .fw 0x104 1 = true ∧
        d.ctl.fwPrev = none ∧ d.ctl.mbox = [] ∧ d.ctl.fwNext = some 1 ∧ d.takeBusy = false ∧ r.Mirrors ∧
        r.ctl.fwNext = some 1 ∧ r.ctl.fwPrev = some 0 ∧ r.ctl.mbox = []) := by
  unfold Dev.Mirrors Dev.canWrite Dev.hostUp; dsimp only; decide +kernel

/-- The boot ROM: an image it refuses, and one it takes if its signature verifies. -/
theorem test_hyp_firmwareRuns_rom :
    (let d := romDev [7]; d.Mirrors ∧ d.bootRom = true ∧ d.powered = true ∧ d.ctl.fwJob = 1 ∧
      d.ctl.fwImage = some [7] ∧ fwCheck [7] d.record.svn ≠ 0) ∧
    (romDev smallImage).bootRom = true ∧
    (Config.edVerify 0 (smallImage.take 0x40 ++ (smallImage.drop 128).take 0) ((smallImage.drop 0x40).take 64) = true →
      fwCheck smallImage (romDev smallImage).record.svn = 0) := by
  refine ⟨by unfold Dev.Mirrors; decide +kernel, by decide +kernel, fun h => ?_⟩
  have hv : leNat ((smallImage.drop 0x13).take 1) = 0 := by decide +kernel
  have hb : leNat ((smallImage.drop 0x0C).take 4) = 0 := by decide +kernel
  have hn : leNat ((smallImage.drop 0x08).take 4) = 2 := by decide +kernel
  have hm : leNat ((smallImage.drop 0).take 4) = 0x57464B49 := by decide +kernel
  have hz : leNat ((smallImage.drop 0x14).take 44) = 0 := by decide +kernel
  have hs : (romDev smallImage).record.svn = 0 := by decide +kernel
  have hl : smallImage.length = 128 := by decide +kernel
  unfold fwCheck
  simp only [hv, hb, hn, hm, hz, hs, hl, h]
  decide

def goodUp (ok : Bool) : PowerUp := ⟨ok, true, [], []⟩

/-- After reset, with power in range or not, enabled or not. -/
def offDev (range en : Bool) : Dev := { pwr := { inRange := range, en := en } }

/-- The same with no slot that boots. -/
def noBoot (d : Dev) : Dev := { d with ctl := { d.ctl with fwA := {} } }

/-- PowerAndResets: power-up and input restored, with and without a bootable slot; a device that runs. -/
theorem test_hyp_powerAndResets : ∀ x ∈ [(true, false), (false, true)],
    let d := offDev x.1 x.2;
    d.Mirrors ∧ d.pwr.inRange = x.1 ∧ d.pwr.en = x.2 ∧ d.pwr.trip = false ∧ d.rdBool .ident 0x100 0 = false ∧
      d.bootSlot.isSome = true ∧ (noBoot d).bootSlot = none ∧ (noBoot d).Mirrors := by
  unfold Dev.Mirrors; decide +kernel

theorem test_hyp_powerAndResets_live :
    let o := live.setPort .b { live.portB with perst := true };
    let f := (live.setPort .a { live.portA with perst := false }).setPort .b { live.portB with perst := false };
    (goodUp true).factoryOk = true ∧ (goodUp false).factoryOk = false ∧ (offDev false false).pwr.inRange = false ∧
      live.Mirrors ∧ live.powered = true ∧ live.bootSlot.isSome = true ∧ live.rdBool .ident 0x100 0 = true ∧
      (o.port Port.a.other).perst = true ∧ o.Mirrors ∧ f.Mirrors ∧ f.rdBool .ident 0x100 0 = true ∧
      (f.port Port.a.other).perst = false ∧ (f.port .a).perst = false ∧ f.powered = true := by
  unfold Dev.Mirrors; decide +kernel

/-- SidebandServes: requests of no words, of 17, and past the end; a register, one of a block that is gone; writes it may
and may not make; sensors; the UART in both states. -/
theorem test_hyp_sidebandServes :
    (∀ x ∈ [(0, 0), (0, 17), (2 ^ 26, 1), (2, 1)], live.sideOk x.1 x.2 = false) ∧
    ((offDev false true).sideOk 0 1 = false ∧ (offDev false true).powered = false) ∧
    (∀ pg ∈ [Page.me 3, .tile 143], pageOf (pg.base + 0x104) = some (pg, 0x104) ∧ live.sideOk (pg.base + 0x104) 1 = true ∧
      live.gone pg 0x104 = false ∧ (live.wr pg 0x014 0 0).gone pg 0x104 = true) ∧
    (let a := (Page.sluice).base + 0x10C; live.sideOk a [1, 2].length = true ∧ pageOf (a + 4 * 0) = some (.sluice, 0x10C) ∧
      sidebandMay .sluice 0x10C = false) ∧
    live.Mirrors ∧ live.powered = true ∧ live.gone .sluice 0x110 = false ∧ wordReserved .sluice 0x110 2000 = false ∧
    ({ live with pwr := { live.pwr with alert := true } }).pwr.alert = true ∧ live.rdBool .entCell 0x104 9 = false ∧
    (live.wr .entCell 0x104 9 1).rdBool .entCell 0x104 9 = true := by
  unfold Dev.Mirrors; decide +kernel

/-- Cage k in state `c` with a cable in, the button and touch on, its links in state `l`, both ends of the first done. -/
def cageDev (k c l : Nat) : Dev :=
  let g := Page.cage k
  let d := ((((live.wr g 0x100 2 1).wr g 0x100 3 1).wr g 0x104 0 c).wr g 0x104 3 1).wr g 0x10C 0 40
  (cageLinks k).foldl (fun d i => (d.wr (.link i) 0x104 0 l).wr (.link i) 0x014 0 1) d

/-- CagesServe: the first and the last cage in each of its states. -/
theorem test_hyp_cagesServe : ∀ k ∈ [0, 15],
    let i := 4 * k + 3; let s := cageDev k 3 2; let w := cageDev k 2 3; let r := cageDev k 5 5; let g := cageDev k 4 4;
    let t := ((cageDev k 1 0).wr (.cage k) 0x104 5 1).wr (.link i) 0x100 1 1;
    k < 16 ∧ i ∈ cageLinks k ∧ s.Mirrors ∧ s.rdBool (.cage k) 0x100 2 = true ∧ s.rdBool (.cage k) 0x100 3 = true ∧
      s.cageState k = 3 ∧ s.linkState i = 2 ∧ w.Mirrors ∧ w.cageState k = 2 ∧ w.rdBool (.cage k) 0x100 2 = true ∧
      w.linkState i = 3 ∧ r.Mirrors ∧ r.cageState k = 5 ∧ r.rdBool (.cage k) 0x104 3 = true ∧
      r.canWrite (.host .a) (.link i) 0x200 ∧ r.linkState i = 5 ∧ g.Mirrors ∧ g.linkState i = 4 ∧ (g.link i).replay = [] ∧
      (∀ p ∈ [Port.a, .b], (g.take p).links.contains i = false) ∧ g.cageState k = 4 ∧ t.Mirrors ∧ t.cageState k = 1 ∧
      t.linkState i = 0 ∧ t.mayTrain i = true := by
  unfold Dev.Mirrors Dev.canWrite Dev.hostUp; dsimp only; decide +kernel

theorem test_hyp_cagesServe_cables : ∀ k ∈ [0, 15],
    let d := live; let r := (cageDev k 5 4).wr (.link (4 * k + 3)) 0x104 0 5;
    findKey k d.pwr.cables = none ∧ d.rdBool .ident 0x100 0 = true ∧ d.Mirrors ∧ (60 ≤ 60 ∧ d.rd .modPage 0x10C 0 + 60 ≤ 800) ∧
      r.linkState (4 * k + 3) = 5 ∧ ∀ j ∈ cageLinks k, j ≠ 4 * k + 3 → r.linkState j ≠ 5 := by
  unfold Dev.Mirrors; decide +kernel

/-! ### Links -/

/-- Device 7 with link i in state `st`, its partner device 9 by route 0 over it, vault 0 ready. -/
def linkDev (i st : Nat) (d : Dev := live) : Dev :=
  let d := (((d.wr .ident 0x10C 0 7).wr .ident 0x10C 16 1).wr (.cage (i / 4)) 0x104 0 3).wr (.cage (i / 4)) 0x104 5 1
  let d := (((d.wr (.link i) 0x104 0 st).wr (.link i) 0x104 5 1).wr (.link i) 0x104 6 1).wr (.link i) 0x108 0 9
  (((d.wr (.route 9) 0 0 i).wr (.route 9) 0 26 1).wr (.vc 0) 0x20C 0 0).wr (.vc 0) 0x204 0 0

/-- The same in a running take of port A with slot entries `es`, its device 7 at logical index `me`. -/
def slotDev (i : Nat) (es : List Nat) (t : Take := {}) (me : Nat := 1) : Dev :=
  let t := { t with cs := { t.cs with blocks := [(0xA0, i), (0xA0, 64 + i / 16)], takeId := 99, multi := true,
                                      devices := setAt [3, 4, 9] me 7, claps := List.replicate 6 ⟨true, false, false, true, 0, 0⟩ } }
  let d := (linkDev i 2 (at1 (mb (.tile 0)) 0 [] t tileDev)).wr (.link i) 0x10C 0 es.length
  es.zipIdx.foldl (fun d x => (((d.wr (.link i) (0x800 + 4 * x.2) 0 (bits x.1 0 2)).wr (.link i) (0x800 + 4 * x.2) 2
    (bits x.1 2 12)).wr (.link i) (0x800 + 4 * x.2) 14 (bits x.1 14 2)).wr (.link i) (0x800 + 4 * x.2) 16 (bits x.1 16 12)) d

def onLink (i : Nat) (d : Dev) (f : LinkSt → LinkSt) : Dev := d.modLink i f

/-- LinksTrain: the first and the last link DOWN, in training, UP; in a take, there draining, and not; under recalibration. -/
theorem test_hyp_linksTrain : ∀ i ∈ [0, 63],
    let u := linkDev i 2; let t := slotDev i [1]; let r := onLink i u fun l => { l with recal := 2 };
    i < 64 ∧ (∀ st ∈ [0, 1], (linkDev i st).Mirrors ∧ (linkDev i st).linkState i = st ∧ (linkDev i st).mayTrain i = true) ∧
      u.Mirrors ∧ u.linkState i = 2 ∧ u.mayTrain i = true ∧ u.canWrite (.host .a) (.link i) 0x200 ∧
      u.takeOf (.link i) = none ∧ (u.link i).recal = 0 ∧ t.Mirrors ∧ t.canWrite (.host .a) (.link i) 0x200 ∧
      t.mayTrain i = true ∧ t.linkState i = 2 ∧ t.takeOf (.link i) ≠ none ∧ r.Mirrors ∧ r.recalibrating i = true := by
  unfold Dev.Mirrors Dev.canWrite Dev.hostUp; dsimp only; decide +kernel

theorem test_hyp_linksTrain_taken : ∀ i ∈ [0, 63], ∀ st ∈ [0, 4],
    let g := (slotDev i [1]).wr (.link i) 0x104 0 st;
    g.Mirrors ∧ g.canWrite (.host .a) (.link i) 0x200 ∧ g.mayTrain i = true ∧ g.linkState i = st ∧
      g.takeOf (.link i) ≠ none ∧ (g.link i).recal = 0 := by
  unfold Dev.Mirrors Dev.canWrite Dev.hostUp; dsimp only; decide +kernel

/-- FlitsLaidOut: 32 flits wait for their acknowledgement, at either position of a codeword; credits due on each channel. -/
def fullDev (i : Nat) (half : Option Nat) : Dev := onLink i (linkDev i 2) fun l => { l with
  replay := List.replicate 32 7, half := half, due := 2 ^ 16 * 255 + 2 ^ 24 * 1 + 2 ^ 32 * 2 }

theorem test_hyp_flitsLaidOut : ∀ i ∈ [0, 63], ∀ h ∈ [none, some 9],
    let d := fullDev i h; d.Mirrors ∧ d.linkCarries i = true ∧ 32 ≤ (d.link i).replay.length ∧ (d.link i).half = h ∧
      255 < 2 ^ 8 ∧ (d.link i).due = 2 ^ 16 * 255 + 2 ^ 24 * 1 + 2 ^ 32 * 2 := by
  unfold Dev.Mirrors; decide +kernel

/-- Flit positions of a codeword: flit A, then flit B with the control word (R296). -/
theorem test_codeword : bits (mkCodeword 0x1FF 5 6) 0 64 = 0x1FF ∧ bits (mkCodeword 0x1FF 5 6) 64 2048 = 5 ∧
    bits (mkCodeword 0x1FF 5 6) (64 + 2048) 2048 = 6 := by decide +kernel

/-- LinksTransmit: a clapper flit, a service and a management flit, a body of flow 5 in slot 0, which names it. -/
theorem test_hyp_linksTransmit : ∀ i ∈ [0, 63],
    let d := linkDev i 2; let c := onLink i d fun l => { l with clap := [77] };
    let v := onLink i d fun l => { l with ctl := [.service 78, .management 79] };
    let s := onLink i (slotDev i [1 + 4 * 5, 2 + 4 * 5]) fun l => { l with flows := tput [] 5 [80, 81] };
    let o := onLink i v fun l => { l with ctlCr := 0 };
    (∀ x ∈ [d, c, v, s, o], x.Mirrors ∧ x.linkCarries i = true ∧ (x.link i).replay.length < 32 ∧
      x.rdBool .ident 0x10C 16 = true) ∧ (c.link i).clap = [77] ∧ (v.link i).clap = [] ∧ v.slotCount i = 0 ∧
      (d.link i).clap = [] ∧ d.slotCount i = 0 ∧ (d.link i).ctl = [] ∧ (o.link i).clap = [] ∧ o.slotCount i = 0 ∧
      (o.link i).ctl ≠ [] ∧ (o.link i).ctlCr = 0 ∧ (v.link i).ctl = [.service 78, .management 79] ∧ 0 < (v.link i).ctlCr ∧ (s.link i).clap = [] ∧ s.slotCount i = 2 ∧
      (s.link i).txPos = 0 ∧ slotTxVc (s.slotOf i 0) = 1 ∧ slotTxFlow (s.slotOf i 0) = 5 ∧
      tget [] (s.link i).flows 5 = [80, 81] ∧ 0 < (s.link i).bulk ∧ 0 < (s.link i).red := by
  unfold Dev.Mirrors; decide +kernel

/-- Two flits wait for their acknowledgement; a control word that acknowledges the first, and one with a reserved bit. -/
def replayDev (i : Nat) : Dev := onLink i (linkDev i 2) fun l => { l with replay := [mkFlit 4 0 80, mkFlit 5 0 81] }

/-- A body of flow 5 waits at a gateway's fork: two links' slots name the flow. -/
def forkDev (q : Nat) : Dev :=
  let t : Take := { cs := { blocks := [(0xA0, 16 * q), (0xA0, 16 * q + 15), (0xA0, 64 + q)] } }
  let l i (d : Dev) : Dev := ((linkDev i 2 d).wr (.link i) 0x10C 0 1).wr (.link i) 0x800 0 1 |>.wr (.link i) 0x800 2 5
  (l (16 * q) (l (16 * q + 15) (at1 (mb (.tile 0)) 0 [] t tileDev))).setGw q { forks := [(5, 80)] }

theorem test_hyp_linksTransmit_rest :
    (let d := replayDev 63; d.Mirrors ∧ d.linkCarries 63 = true ∧ bits 0x304 10 6 = 0 ∧ bits 0x304 40 24 = 0 ∧
      bit 0x304 8 = true ∧ bit 0x304 9 = true ∧
      (d.link 63).replay.findIdx? (fun f => flitSeq f == bits 0x304 0 8) = some 0 ∧ bit 0x104 9 = false ∧
      bit 0x204 8 = false ∧ bits 0x400 10 6 ≠ 0 ∧ bit 0x300 8 = true) ∧
    (∀ q ∈ [0, 3], let d := forkDev q; let bs := d.branches q 5;
      d.Mirrors ∧ q < 4 ∧ d.rdBool .ident 0x10C 16 = true ∧ (d.gw q).forks.find? (·.1 == 5) = some (5, 80) ∧ bs = [16 * q, 16 * q + 15] ∧
      (∀ j ∈ bs, d.linkCarries j = true ∧ (d.link j).replay.length < 32 ∧
        slotTxVc (d.slotOf j (d.link j).txPos) ≠ 0 ∧ slotTxFlow (d.slotOf j (d.link j).txPos) = 5 ∧
        0 < (if slotTxVc (d.slotOf j (d.link j).txPos) = 1 then (d.link j).bulk else (d.link j).red)) ∧
      d.takeOf (.gw q) = some .a) := by
  unfold Dev.Mirrors; decide +kernel

/-- A bulk flit of one segment with flow `f`; the receive entry of slot 0 names flow 5, delivered as writes at 0x2000. -/
def bulkFlit (f : Nat) : Nat := mkFlit 0 vcBulk (mkBody { flow := f, segs := 1, dst := 7, src := 9 } [0xABCD])
def rxDev (i kind : Nat) : Dev :=
  let d := slotDev i [2 ^ 14 + 5 * 2 ^ 16]; let g := Page.gw (i / 16); let o := 0x10000 + 16 * 5
  if kind = 0 then d else ((d.wr g o 2 1).wr g o 0 kind).wr g (o + 8) 0 (0x2000 / 64)

theorem test_hyp_linksReceive : ∀ i ∈ [0, 63], ∀ f ∈ [5, 6], ∀ kind ∈ [0, 2],
    let d := rxDev i kind; let b := flitBody (bulkFlit f); let o := 0x10000 + 16 * bodyFlow b;
    d.Mirrors ∧ d.linkCarries i = true ∧ flitIdle (bulkFlit f) = false ∧ d.rd (.link i) 0x024 0 = 0 ∧
      flitReserved (bulkFlit f) = false ∧ flitSeq (bulkFlit f) = ((d.link i).rxSeq + 1) % 256 ∧
      flitVc (bulkFlit f) = vcBulk ∧ d.rdBool .ident 0x10C 16 = true ∧ d.legacy i = false ∧ d.takeOf (.link i) = some .a ∧ d.nextRx i (d.link i).rxPos = some 0 ∧
      (slotRxFlow (d.slotOf i 0) = bodyFlow b ↔ f = 5) ∧ slotVc (slotRxVc (d.slotOf i 0)) = vcBulk ∧
      (f = 5 → d.rdBool (.gw (i / 16)) o 2 = (kind == 2) ∧ (kind = 2 → d.rd (.gw (i / 16)) o 0 = 2)) ∧ bodySegs b = 1 ∧
      64 * (0x2000 / 64) + 16 * 0 + 16 ≤ localSpace ∧ d.takeOf (.gw (i / 16)) = some .a := by
  unfold Dev.Mirrors; decide +kernel

theorem test_hyp_linksReceive_crc : flitCrcOk (bulkFlit 5) = true ∧ flitCrcOk (bulkFlit 6) = true := by decide +kernel

/-- A device without its number; a number that is not the next. -/
theorem test_hyp_linksReceive_unnamed : ∀ i ∈ [0, 63],
    let u := (rxDev i 2).wr .ident 0x10C 16 0;
    u.Mirrors ∧ u.linkCarries i = true ∧ flitIdle (bulkFlit 5) = false ∧ u.rd (.link i) 0x024 0 = 0 ∧
      flitReserved (bulkFlit 5) = false ∧ flitSeq (bulkFlit 5) = ((u.link i).rxSeq + 1) % 256 ∧
      flitVc (bulkFlit 5) = vcBulk ∧ u.rdBool .ident 0x10C 16 = false ∧ (rxDev i 2).linkCarries i = true ∧
      1 % 256 ≠ (((rxDev i 2).link i).rxSeq + 1) % 256 := by
  unfold Dev.Mirrors; decide +kernel

theorem test_hyp_linksReceive_errors : ∀ i ∈ [0, 63],
    let d := linkDev i 2; let f := onLink i d fun l => { l with failed := some 0, corr := [(1, 2)] };
    let g := f.wr (.link i) 0x104 6 0;
    d.Mirrors ∧ d.linkCarries i = true ∧ 0 % 256 = ((d.link i).rxSeq + 1) % 256 ∧ (d.link i).failed ≠ some (0 % 256) ∧
      f.Mirrors ∧ f.linkCarries i = true ∧ (f.link i).failed = some (0 % 256) ∧ f.rdBool (.link i) 0x104 5 = true ∧
      f.rdBool (.link i) 0x104 6 = true ∧ f.linkState i ≠ 4 ∧
      ((f.link i).corr.map (·.1)).sum < ((f.link i).corr.map (·.2)).sum ∧ g.Mirrors ∧ g.linkCarries i = true ∧
      (g.link i).failed = some (0 % 256) ∧ (g.rdBool (.link i) 0x104 5 && g.rdBool (.link i) 0x104 6) = false ∧
      d.rdBool .ident 0x10C 16 = true ∧ (0 % 256 + 255 - (d.link i).rxSeq) % 256 < 128 ∧ 128 ≤ (255 % 256 + 255 - (d.link i).rxSeq) % 256 := by
  unfold Dev.Mirrors; decide +kernel

/-- A control flit with operation `op` of one line, for device `dst`, tag `tag`; its route is link 0, then link `i`. -/
def svcFlit (op dst tag : Nat) (i : Nat := 0) : Nat :=
  mkFlit 0 vcCtl (mkBody { segs := 5, dst := dst, src := 9, hop := 1, lenM1 := 1, route := i * 2 ^ 6 }
    (svcHeader op 1 0x1000 tag :: [11, 12, 13, 14]))

/-- The last engine's program waits for a remote read. -/
def pumpWaits (i : Nat) : Dev :=
  linkDev i 2 (runs { progAt 0x80 with phase := .cond 0, fetch := [⟨0, 1, 0x3000, 64, none, false⟩, ⟨0, 1, 0x3040, 64, none, false⟩] })

/-- ServiceTravels: each operation, here and onward; vault 0 of another partition. -/
theorem test_hyp_serviceTravels : ∀ i ∈ [0, 63], ∀ op ∈ [0, 1, 2, 3, 4], ∀ dst ∈ [7, 9],
    let fl := svcFlit op dst (31 * 2048) i; let d := pumpWaits i; let b := flitBody fl; let w := d.wr (.vc 0) 0x20C 0 1;
    d.Mirrors ∧ d.linkCarries i = true ∧ flitIdle fl = false ∧ d.rd (.link i) 0x024 0 = 0 ∧ flitReserved fl = false ∧
      flitSeq fl = ((d.link i).rxSeq + 1) % 256 ∧ flitVc fl = vcCtl ∧ bits (bodySeg b 0) 0 4 = op ∧
      d.rdBool .ident 0x10C 16 = true ∧ (bodyDst b = d.devId ↔ dst = 7) ∧ d.svcAllowed i 0x1000 1 = true ∧
      w.svcAllowed i 0x1000 1 = false ∧ w.Mirrors ∧ d.vaultField (0x1000 / 2 ^ 27) 4 0 ≠ 1 ∧
      d.rd (vaultPage (0x1000 / 2 ^ 27)) 0x024 0 = 0 ∧ bodySrc b = 9 ∧ d.routeTo 9 = some (i, 0) ∧
      d.linkUsable (bits i 0 6) = true ∧ bits (bodySeg b 0) 46 16 / 2048 = 31 ∧ bits (bodySeg b 0) 46 16 % 2048 = 0 ∧
      bits (bodySeg b 0) 4 2 = 1 ∧ bits (bodySeg b 0) 8 38 = 0x1000 ∧ bodyHop b ≤ bodyLenM1 b ∧
      bodyRoute b (bodyHop b) = i := by
  unfold Dev.Mirrors; decide +kernel

/-- A flit for device 9 that has no hop left, and one whose next link is out; the answer has a way. -/
theorem test_hyp_serviceTravels_out : ∀ i ∈ [0, 63], ∀ op ∈ [0, 1],
    let fl := svcFlit op 9 (31 * 2048) (if i = 0 then 63 else 0); let d := pumpWaits i; let b := flitBody fl;
    let e := mkFlit 0 vcCtl (putBits b 36 2 2);
    d.Mirrors ∧ flitReserved fl = false ∧ bits (bodySeg b 0) 0 4 = op ∧ bodyDst b ≠ d.devId ∧
      d.linkUsable (bodyRoute b (bodyHop b)) = false ∧ d.routeTo (bodySrc b) = some (i, 0) ∧
      d.linkUsable (bits i 0 6) = true ∧ bodyLenM1 (flitBody e) < bodyHop (flitBody e) ∧ flitReserved e = false ∧
      bits (bodySeg (flitBody e) 0) 0 4 = op := by
  unfold Dev.Mirrors; decide +kernel

/-- The program has written to another device, and may be waiting for reads with the same tag. -/
def remoteProg : Prog := { progAt 0x80 with
  phase := .cond 0, rmt := some (4, []), fetch := [(⟨0, 1, 0x3000, 64, some [1], false⟩ : Fetch)] ++
    List.replicate 2046 ⟨0, 0, 0x3000, 64, none, false⟩ ++ [⟨0, 1, 0x3040, 64, none, false⟩] }

def remoteWaits (i : Nat) : Dev := linkDev i 2 (runs remoteProg)

theorem test_hyp_serviceTravels_tags :
    let d := remoteWaits 63; let f : Fetch := ⟨0, 1, 0x3040, 64, none, false⟩;
    d.prog 31 = some remoteProg ∧ remoteProg.fetch[2047]? = some f ∧ f.data = none ∧ f.space = 1 ∧ 2047 % 2047 = 0 ∧
      (∀ k < 2047, k % 2047 = 0 → ∀ y, remoteProg.fetch[k]? = some y → y.data ≠ none ∨ y.space ≠ 1) ∧
      (remoteProg.fetch.eraseIdx 2047).any (·.data.isNone) = true ∧ (31 * 2048 + 2047) / 2048 = 31 ∧
      (31 * 2048 + 2047) % 2048 = 2047 ∧ remoteProg.rmt = some (4, []) ∧ remoteProg.phase ≠ .ring ∧
      d.pumpPort 31 = some .a ∧ d.cringFull (cringOf .a (d.rd (.well (wellOf 31 remoteProg.ch)) 0x08 12)) = false ∧
      remoteProg.ch < 2048 ∧ remoteProg.stop = false := by
  decide +kernel

theorem test_hyp_serviceTravels_pump :
    let d := pumpWaits 63; let g := { progAt 0x80 with phase := .cond 0, fetch := [⟨0, 1, 0x3000, 64, none, false⟩, ⟨0, 1, 0x3040, 64, none, false⟩] };
    d.prog 31 = some g ∧ g.fetch[0]? = some ⟨0, 1, 0x3000, 64, none, false⟩ ∧ (∃ y ∈ g.fetch.eraseIdx 0, y.data = none) ∧
      d.pumpPort 31 = some .a ∧ g.ch < 2048 ∧ g.stop = false ∧ g.phase ≠ .data ∧
      d.cringFull (cringOf .a (d.rd (.well (wellOf 31 g.ch)) 0x08 12)) = false ∧
      (d.linkState 63 = 2 ∨ d.linkState 63 = 3) := by
  decide +kernel

theorem test_hyp_serviceTravels_crc_out : ∀ op ∈ [0, 1],
    flitCrcOk (svcFlit op 9 (31 * 2048) 0) = true ∧
      flitCrcOk (mkFlit 0 vcCtl (putBits (flitBody (svcFlit op 9 (31 * 2048) 63)) 36 2 2)) = true := by decide +kernel

theorem test_hyp_serviceTravels_crc : ∀ op ∈ [0, 1, 2, 3, 4],
    flitCrcOk (svcFlit op 7 (31 * 2048)) = true := by decide +kernel

theorem test_hyp_serviceTravels_crc_onward : ∀ op ∈ [0, 1, 2, 3],
    flitCrcOk (svcFlit op 9 (31 * 2048) 63) = true := by decide +kernel

/-- A clapper message of a kind for identifier `id` of take 99, from logical device 2. -/
def clapFlit (kind id : Nat) : Nat :=
  mkFlit 0 vcClap (mkBody { segs := 2, dst := 7, src := 9 } (clapSegs id kind 5 2 0 99 3))

/-- ClapsTravel: the root and a device that is not, at the start occurrence and at a later one. -/
theorem test_hyp_clapsTravel : ∀ kind ∈ [0, 1, 2], ∀ id ∈ [0, 5], ∀ me ∈ [0, 1],
    let fl := clapFlit kind id; let d := slotDev 63 [] { xsent := [id], started := id != 0 } me; let b := flitBody fl;
    let m := bodySeg b 0;
    d.Mirrors ∧ bits m 0 6 = id ∧ d.running .a = true ∧ (d.take .a).isXdev id = true ∧ d.linkCarries 63 = true ∧
      flitIdle fl = false ∧ d.rd (.link 63) 0x024 0 = 0 ∧ flitReserved fl = false ∧
      flitSeq fl = ((d.link 63).rxSeq + 1) % 256 ∧ flitVc fl = vcClap ∧ bits m 6 2 = kind ∧
      d.rdBool .ident 0x10C 16 = true ∧ d.legacy 63 = false ∧ bodyDst b = d.devId ∧
      d.msgTake 63 (bits (bodySeg b 1) 0 64) = some .a ∧ (d.logicalDev (d.take .a) = 0 ↔ me = 0) ∧
      bits m 16 10 = 2 ∧ (d.take .a).cs.devices.length = 3 ∧ (d.take .a).xmsgs = [] ∧ id ∈ (d.take .a).xsent ∧
      (id = 0 → (d.take .a).started = false) ∧ (id ≠ 0 → id ≠ d.endId .a) ∧ (d.take .a).phaseAt = [] ∧
      (d.take .a).cutAt = [] := by
  unfold Dev.Mirrors; decide +kernel

/-- The root, at `id`, with the other devices' messages in; device 1's step count is `step`, and its message's kind `kind`. -/
def rootDev (id kind step : Nat) : Dev :=
  slotDev 63 [] { xsent := [id], started := id != 0, occ := tput [] id 3,
                  xmsgs := [⟨id, 0, 0, 0, 0, 99, 3⟩, ⟨id, kind, 6, 1, step, 99, 3⟩] } 0

/-- Its clause over every device's message: all agree; a step count differs; a device, or the message itself, stops. -/
theorem test_hyp_clapsTravel_decision : ∀ id ∈ [0, 5],
    let m := bodySeg (flitBody (clapFlit 0 id)) 0; let n := bodySeg (flitBody (clapFlit 0 id)) 1;
    let x : XMsg := ⟨id, 0, 0, bits m 16 10, bits m 32 48, bits n 0 64, bits n 64 64⟩;
    let all := fun (d : Dev) (x : XMsg) => ((d.take .a).xmsgs ++ [x]).filter (·.id == id);
    let d := rootDev id 0 0; let w := rootDev id 0 1; let z := rootDev id 2 0;
    d.Mirrors ∧ w.Mirrors ∧ z.Mirrors ∧ d.running .a = true ∧ (d.take .a).isXdev id = true ∧ d.logicalDev (d.take .a) = 0 ∧
      (∀ k < (d.take .a).cs.devices.length, ∃ y ∈ all d x, y.sender = k) ∧
      (∀ y ∈ all d x, y.kind = 0 ∧ y.takeId = (d.take .a).cs.takeId ∧ y.occ = tget 0 (d.take .a).occ id ∧
        y.step = ((all d x).headD x).step) ∧
      (∃ y ∈ all w x, ∃ u ∈ all w x, y.kind = 0 ∧ u.kind = 0 ∧ u.step ≠ y.step) ∧ (∃ y ∈ all z x, y.kind = 2) := by
  unfold Dev.Mirrors; decide +kernel

/-- A message for device 9 goes on by link 63. -/
def clapOn (kind : Nat) : Nat :=
  mkFlit 0 vcClap (mkBody ⟨0, 2, 9, 4, 1, 1, 63 * 2 ^ 6⟩ (clapSegs 5 kind 5 2 0 99 3))

theorem test_hyp_clapsTravel_onward : ∀ kind ∈ [0, 1, 2],
    let fl := clapOn kind; let d := linkDev 63 2; let b := flitBody fl;
    d.Mirrors ∧ d.linkCarries 63 = true ∧ flitIdle fl = false ∧ d.rd (.link 63) 0x024 0 = 0 ∧
      flitReserved fl = false ∧ flitSeq fl = ((d.link 63).rxSeq + 1) % 256 ∧ flitVc fl = vcClap ∧
      bits (bodySeg b 0) 6 2 = kind ∧ d.rdBool .ident 0x10C 16 = true ∧ d.legacy 63 = false ∧ bodyDst b ≠ d.devId ∧
      bodyHop b ≤ bodyLenM1 b ∧ bodyRoute b (bodyHop b) = 63 ∧ d.linkUsable 63 = true := by
  unfold Dev.Mirrors; decide +kernel

/-- Another device, at the cut point a CUT waits for, or at END. -/
def cutDev (id : Nat) (cut : List (Nat × Nat)) : Dev :=
  (slotDev 63 [] { xsent := [id], cutAt := cut } 1).modTake .a fun t =>
    { t with cs := { t.cs with claps := List.replicate 64 ⟨true, true, false, true, 0, 0⟩ } }

theorem test_hyp_clapsTravel_release : ∀ x ∈ [(5, [(5, 2)]), (5, []), (31, [])],
    let d := cutDev x.1 x.2; let fl := clapFlit 1 x.1; let b := flitBody fl; let m := bodySeg b 0;
    d.Mirrors ∧ bits m 0 6 = x.1 ∧ d.running .a = true ∧ (d.take .a).isXdev x.1 = true ∧ x.1 ∈ (d.take .a).xsent ∧
      d.linkCarries 63 = true ∧ flitIdle fl = false ∧ d.rd (.link 63) 0x024 0 = 0 ∧ flitReserved fl = false ∧
      flitSeq fl = ((d.link 63).rxSeq + 1) % 256 ∧ flitVc fl = vcClap ∧ bits m 6 2 = 1 ∧ d.rdBool .ident 0x10C 16 = true ∧
      d.legacy 63 = false ∧ bodyDst b = d.devId ∧ d.msgTake 63 (bits (bodySeg b 1) 0 64) = some .a ∧
      d.logicalDev (d.take .a) ≠ 0 ∧ d.captures .a x.1 = (if x.2 = [] then none else some 2) ∧
      (x.1 = d.endId .a ↔ x.1 = 31) := by
  unfold Dev.Mirrors; decide +kernel

theorem test_hyp_clapsTravel_crc : ∀ kind ∈ [0, 1, 2], flitCrcOk (clapFlit kind 5) = true ∧
    flitCrcOk (clapFlit kind 0) = true ∧ flitCrcOk (clapFlit kind 31) = true ∧ flitCrcOk (clapOn kind) = true := by
  decide +kernel

/-! ### The update rules, flits -/

/-- Tile 143, whose first variable's descriptor has kind `kind` with `q` states and the raw state `x`, its field `h`, β 1. -/
def ruleDev (kind q x h : Nat) : Dev :=
  let d := { tileDev with regs := tileDev.regs }
  let d := (((d.wr (.tile 143) 0x10C 0 4).wr (.tile 143) 0x12C 0 (if kind = 0 then 0 else if kind = 1 then 1 else 2)).wr
    (.tile 143) 0x12C 16 1)
  let d := (List.range 7).foldl (fun d i => d.wr (.tile 143) (0x110 + 4 * i) 6 (64 * (i + 1))) d
  let a := tileSram 143 + 0x1000
  let d := d.st a 16 (kind * 2 ^ 50 + (q - 1) * 2 ^ 52 + 0x3F800000 * 2 ^ 96)
  let d := (List.range 16).foldl (fun d i => d.st (a + 0x1000 + 4 * i) 4 ((h + i * 0x3000) % 2 ^ 32)) d
  let d := d.putElem (a + 0x2000) (stateWidth (if kind = 0 then 0 else if kind = 1 then 1 else 2)) 0 x
  d.st (a + 4 * 0x1000) 4 0x3F800000

def ruleSweep (b : Bool) : Sweep := { op := 0x41, left := 1, early := false, spinRule := b, pottsRule := b, frame := 5,
                                      half := 0, flips := [] }

/-- UpdatesFollowRules: a spin with a field far above, far below and near zero in both states; a Potts variable of three
states; a Gaussian unit. -/
theorem test_hyp_updatesFollowRules :
    (∀ h ∈ [20 * 2 ^ 16, 2 ^ 32 - 20 * 2 ^ 16, 2 ^ 14], ∀ s ∈ [0, 1],
      let d := ruleDev 0 1 s h; let c := d.tileCtx .a 143; let e := c.desc d 0;
      let x := f32add (f32mul 0x3F800000 (f32OfFx32 h)) (f32mul 0x3F800000 (f32OfFx32 h)); let a := if s = 1 then x else f32neg x;
      c.s < 144 ∧ e.kind = 0 ∧ c.state d e 0 = s ∧ c.beta d 0 = 0x3F800000 ∧ d.ld (e.fieldAddr 0 0) 4 = h ∧
        (f32 lambdaMax).lt (f32 x) = (h == 20 * 2 ^ 16) ∧ (f32 x).lt (f32 (f32neg lambdaMax)) = (h == 2 ^ 32 - 20 * 2 ^ 16) ∧
        (f32 a).le .zero = ((s == 1) == (h == 2 ^ 32 - 20 * 2 ^ 16)) ∧
        (f32 a0F32).le (f32 a) = ((h != 2 ^ 14) && ((s == 1) == (h == 20 * 2 ^ 16)))) ∧
    (∀ kind ∈ [1, 2], let d := ruleDev kind 3 2 0x4000; let c := d.tileCtx .a 143; let e := c.desc d 0;
      c.s < 144 ∧ e.kind = kind ∧ c.state d e 0 = 2 ∧ (kind = 1 → e.q = 3) ∧ (kind = 2 → e.variance = 0x3F800000)) := by
  decide +kernel

/-- Its choice among three states is defined: no score is NaN, and one is the largest. -/
theorem test_hyp_updatesFollowRules_gibbs :
    let d := ruleDev 1 3 2 0x4000; let c := d.tileCtx .a 143; let e := c.desc d 0;
    let z (k : Nat) : Nat := f32add (f32mul (c.beta d 0) (f32OfFx32 (d.ld (e.fieldAddr 0 k) 4)))
      (gumbel (u24of (draw c.seed (stream 0 (0x40 + k)) 0 7 (d.ld (e.fieldAddr 0 k) 4 % 2 ^ 16))));
    (∀ k < 3, (f32 (z k)).isNan = false) ∧ ∃ k < 3, (∀ j < 3, (f32 (z k)).lt (f32 (z j)) = false) ∧
      ∀ j < k, (f32 (z j)).lt (f32 (z k)) = true := by
  decide +kernel

/-- FlitsLaidOut: the greatest body, and the greatest control word and flits. -/
theorem test_hyp_flitsLaidOut_words :
    255 < 2 ^ 8 ∧ 3 < 2 ^ 2 ∧ 2 ^ 2000 - 1 < 2 ^ 2000 ∧ 2 ^ 64 - 1 < 2 ^ 64 ∧ 2 ^ 2048 - 1 < 2 ^ 2048 := by
  decide +kernel

/-! ### Well-formed commands: one term that each check refuses -/

theorem test_wf_units : ∀ c ∈ [Instr.meshFlit 16 0 0 [] none, .meshFlit 0 11 0 [] none, .mergeWrite 16 0, .mergeWrite 0 (banksOf 0),
      .scrubLine 512 .clean, .layerSensorReading 0 4 90, .lossOfSignal 64, .serviceWrite 0 (2 ^ 2048), .move 32,
      .stop (.host .a) 65536, .cringHeadWrite (.host .a) 4096 0, .entRingTail (.host .a) .a 32 0, .startupTestDone 8,
      .debugRead (.host .a) 4, .cableRemoved 16, .withdrawal 68 0 0, .withdrawal 64 1 0, .withdrawal 0 8 0],
    c.wf = false := by decide +kernel

theorem test_wf_values : ∀ c ∈ [Instr.watchdogExpiry .a 64, .takeGo .a (2 ^ 256), .devIdWrite .sideband (2 ^ 32), .regRead 0 17,
      .regRead 0 0, .registerWrite (.host .a) false (2 ^ 26) 4 0, .registerWrite (.host .a) true (2 ^ 20 - 4) 8 0,
      .sramAccess .control 60 5 none .clean, .sramAccess .control 0 4 (some []) .clean, .cntClear .sideband 0x0031 0,
      .cntClear .sideband 0x0030 144, .errInject (.host .a) 0x0030 0 4, .bar2Read .a 0 0, .bar2Write .a 0 [] false,
      .pumpFault 0 8 0 0 0 false, .budgetRequest (.host .a) 3 0, .thermalFactor [], .pldmSensorRead 10 0,
      .hostIfaceReq (.host .a) .a 16 0, .linkFlitError 0 256 true none, .mcastStall 0 4096, .pcieLinkUp .a 6 16 true true 30,
      .debugUartInput 256, .recoveryFlit 0 0 4 0, .linkTrained 0 1024 0 3 0], c.wf = false := by decide +kernel

theorem test_wf_accepts : ∀ c ∈ [Instr.meshFlit 15 10 0 [] none, .mergeWrite 2 (banksOf 2 - 1), .cableRemoved 15, .regRead 0 16,
      .pcieLinkUp .b 5 16 true false 36, .cntClear .sideband 0x00A0 68], c.wf = true := by decide +kernel

/-! ### The spec's own examples -/

/-- R10, R11, R437: the node N(10,3). -/
theorem test_node_example : nodeId 10 3 = 0xA3 ∧ siteCol 92 = 10 ∧ siteRow 92 = 3 ∧ tileSram 92 = 0x1017000000 ∧
    (Page.tile 92).base = 0x0570000 ∧ (Page.router 10 3).base = 0x02E2000 := by decide +kernel

/-- R241: the two addresses of its example. -/
theorem test_address_example : 0x0612345680 / 2 ^ 27 = 194 ∧ vaultPage 194 = .vc 6 ∧ bits 0x0612345680 6 6 = 26 ∧
    bankOfAddr 0x1038412340 = some (.ve 4, 4, 144) := by decide +kernel

/-- R112, R121, R58: the inputs of the heat-bath draw, its LOGIT between the knots of its table, and its outcome. -/
theorem test_heat_bath_example : stream 3 0 = 0x0180 ∧ 0x5EED00001234ABCD ^^^ 0x000111706A000180 = 0x5EEC11707834AA4D ∧
    f32mul (f32mul 0x40000000 0x3FC00000) (f32ofInt 0x6A00 (-16)) = 0x3F9F0000 ∧
    (f32 (logitKnot 1606)).lt (f32 (logit 0xF3A19C)) = true ∧ (f32 (logit 0xF3A19C)).lt (f32 (logitKnot 1605)) = true ∧
    (f32 (logit 0xF3A19C)).lt (f32 0x3F9F0000) = false := by decide +kernel

/-- R35: the entry "SPIN to B, w = -0.75" of the gated model, whose first bytes in memory its text gives. -/
theorem test_entry_example : leBytes 8 0x0000F400000003E9 = [0xE9, 3, 0, 0, 0, 0xF4, 0, 0] ∧
    (Ent.mk 0 0x0000F400000003E9 none).target = 1001 ∧ (Ent.mk 0 0x0000F400000003E9 none).contrib 1 = (0, -(3 * 2 ^ 14)) ∧
    (Ent.mk 0 0x20200800000003E8 none).contrib 2 = (0, 2 ^ 15) ∧ (Ent.mk 0 0x20200800000003E8 none).contrib 1 = (0, 0) := by
  decide +kernel

/-- R159: 16,384 + 8 in FP16 stays 16,384; 2,048 is exact. -/
theorem test_chunk_example : fp16.encode (.ofInt (16384 + 8)) = 0x7400 ∧
    fp16.encode (.ofInt 16384) = 0x7400 ∧ fp16.convert (.ofInt 2048) = (0x6800, false) := by decide +kernel

/-- R177: EXPT at 0 and beyond A0. -/
theorem test_vnorm_example : expt 0 = 2 ^ 24 ∧ expt (f32ofInt 32) = 0 := by decide +kernel

/-- R274: the MOVE of 100 bytes writes 40 bytes of one line and 60 of the next. -/
theorem test_move_example : pieces ⟨0x80, 0, 0, 100, 0x1030, 0x2058, 0⟩ = [(0, 40), (40, 60)] := by decide +kernel

/-- R256, R259: the handover example at beat 108, the arbiter of vault 34. -/
def handover : Dev :=
  let a : ArbAt := ⟨4, 2⟩
  let d := live.wr a.pg 0x108 0 8
  run1 (.serviceRequest 4 2 [(2, 4)] 108) (d.setArb a { waiting := [⟨0, 2, 2, 104⟩], holder := some ⟨9, 16, 16, 100⟩ })

theorem test_handover_example : let d := run1 (.revocation 4 2 108) handover; let e := run1 (.arbiterDecision 4 2 112) d;
    (d.arb ⟨4, 2⟩).holder = some ⟨2, 4, 4, 109⟩ ∧ (e.arb ⟨4, 2⟩).holder = some ⟨0, 2, 2, 113⟩ ∧
      e.rd (.arb 4) (0x400 + 0x40 * 2) 0 = 9 ∧ e.rd (.arb 4) (0x600 + 0x40 * 2 + 4 * 9) 0 = 0 ∧
      d.rd (.arb 4) (0x600 + 0x40 * 2 + 4 * 9) 0 = 1 := by decide +kernel

end Sys2Proof.Tests
end

section
/-!
PROOFS. Reading memory after a write (O5): byte ranges, little-endian numbers and the packed elements of R51. An
element is a range of bits of the little-endian number in a group of whole bytes; two elements lie in groups that have no
byte in common, or in one group at ranges that have no bit in common.
-/

namespace Sys2Proof.Machine

/-! ### Ranges of bits -/

theorem testBit_bits (n lo w i : Nat) : (bits n lo w).testBit i = (decide (i < w) && n.testBit (i + lo)) := by
  rw [bits, Nat.testBit_mod_two_pow, Nat.testBit_div_two_pow]

/-- What lies above a replaced range, the new value and what lies below it, side by side. -/
theorem putBits_eq (n lo w v : Nat) :
    putBits n lo w v = 2 ^ lo * (2 ^ w * (n / 2 ^ lo / 2 ^ w) + v % 2 ^ w) + n % 2 ^ lo := by
  have hlow : 2 ^ lo * (n / 2 ^ lo) + n % 2 ^ lo = n := Nat.div_add_mod _ _
  have hhigh : 2 ^ w * (n / 2 ^ lo / 2 ^ w) + bits n lo w = n / 2 ^ lo := Nat.div_add_mod _ _
  have hn : n = 2 ^ lo * (2 ^ w * (n / 2 ^ lo / 2 ^ w)) + bits n lo w * 2 ^ lo + n % 2 ^ lo := by
    calc n = 2 ^ lo * (n / 2 ^ lo) + n % 2 ^ lo := hlow.symm
      _ = 2 ^ lo * (2 ^ w * (n / 2 ^ lo / 2 ^ w) + bits n lo w) + n % 2 ^ lo := by rw [hhigh]
      _ = _ := by ring
  have hdist : 2 ^ lo * (2 ^ w * (n / 2 ^ lo / 2 ^ w) + v % 2 ^ w) =
      2 ^ lo * (2 ^ w * (n / 2 ^ lo / 2 ^ w)) + v % 2 ^ w * 2 ^ lo := by ring
  rw [putBits, hdist]
  omega

theorem testBit_putBits (n lo w v i : Nat) :
    (putBits n lo w v).testBit i = if lo ≤ i ∧ i < lo + w then v.testBit (i - lo) else n.testBit i := by
  rw [putBits_eq, Nat.testBit_two_pow_mul_add _ (Nat.mod_lt _ (Nat.two_pow_pos _))]
  by_cases hlow : i < lo
  · simp [hlow, Nat.not_le.mpr hlow]
  · rw [if_neg hlow, Nat.testBit_two_pow_mul_add _ (Nat.mod_lt _ (Nat.two_pow_pos _))]
    by_cases hin : i - lo < w
    · rw [if_pos hin, if_pos (by omega), Nat.testBit_mod_two_pow, decide_eq_true hin, Bool.true_and]
    · rw [if_neg hin, if_neg (by omega), Nat.testBit_div_two_pow, Nat.testBit_div_two_pow]
      congr 1
      omega

theorem bits_putBits_same (n lo w v : Nat) : bits (putBits n lo w v) lo w = v % 2 ^ w := by
  apply Nat.eq_of_testBit_eq
  intro i
  rw [testBit_bits, testBit_putBits, Nat.testBit_mod_two_pow, Nat.add_sub_cancel]
  by_cases hi : i < w
  · rw [if_pos (by omega)]
  · simp [hi]

theorem bits_putBits_apart (n lo lo' w v : Nat) (h : lo' + w ≤ lo ∨ lo + w ≤ lo') :
    bits (putBits n lo w v) lo' w = bits n lo' w := by
  apply Nat.eq_of_testBit_eq
  intro i
  rw [testBit_bits, testBit_bits, testBit_putBits]
  by_cases hi : i < w
  · rw [if_neg (by omega)]
  · simp [hi]

theorem bits_mod (n lo w m : Nat) (h : lo + w ≤ m) : bits (n % 2 ^ m) lo w = bits n lo w := by
  apply Nat.eq_of_testBit_eq
  intro i
  rw [testBit_bits, testBit_bits, Nat.testBit_mod_two_pow]
  by_cases hi : i < w
  · simp [show i + lo < m by omega]
  · simp [hi]

/-! ### Little-endian numbers -/

@[simp] theorem length_leBytes (n v : Nat) : (leBytes n v).length = n := by
  induction n generalizing v with
  | zero => rfl
  | succ n ih => simp [leBytes, ih]

theorem leNat_leBytes (n v : Nat) : leNat (leBytes n v) = v % 2 ^ (8 * n) := by
  induction n generalizing v with
  | zero => simp [leBytes, leNat, Nat.mod_one]
  | succ n ih =>
    rw [leBytes, leNat, ih, BitVec.toNat_ofNat, show 2 ^ (8 * (n + 1)) = 256 * 2 ^ (8 * n) by ring, Nat.mod_mul]

theorem leBytes_mod (n v : Nat) : leBytes n (v % 2 ^ (8 * n)) = leBytes n v := by
  induction n generalizing v with
  | zero => rfl
  | succ n ih =>
    have hhead : BitVec.ofNat 8 (v % 2 ^ (8 * (n + 1))) = BitVec.ofNat 8 v := by
      apply BitVec.eq_of_toNat_eq
      rw [BitVec.toNat_ofNat, BitVec.toNat_ofNat, Nat.mod_mod_of_dvd _ (pow_dvd_pow 2 (by omega))]
    have htail : v % 2 ^ (8 * (n + 1)) / 256 = v / 256 % 2 ^ (8 * n) := by
      rw [show 2 ^ (8 * (n + 1)) = 256 * 2 ^ (8 * n) by ring, Nat.mod_mul_right_div_self]
    rw [leBytes, leBytes, hhead, htail, ih]

theorem leNat_lt (bs : List Byte) : leNat bs < 2 ^ (8 * bs.length) := by
  induction bs with
  | nil => simp [leNat]
  | cons b t ih =>
    have hb : b.toNat < 256 := b.isLt
    rw [leNat, List.length_cons, show 2 ^ (8 * (t.length + 1)) = 256 * 2 ^ (8 * t.length) by ring]
    omega

/-! ### Bytes of memory -/

@[simp] theorem Dev.length_bytes (d : Dev) (a n : Nat) : (d.bytes a n).length = n := by
  induction n generalizing a with
  | zero => rfl
  | succ n ih => simp [Dev.bytes, ih]

theorem Dev.getElem_bytes (d : Dev) (a n i : Nat) (h : i < (d.bytes a n).length) :
    (d.bytes a n)[i] = d.mem.get (a + i) := by
  induction n generalizing a i with
  | zero => simp at h
  | succ n ih =>
    cases i with
    | zero => rfl
    | succ i => simp [Dev.bytes, ih, Nat.add_assoc, Nat.add_comm 1 i]

theorem Dev.bytes_congr {d e : Dev} {a n : Nat} (h : ∀ i < n, e.mem.get (a + i) = d.mem.get (a + i)) :
    e.bytes a n = d.bytes a n := by
  apply List.ext_getElem (by simp)
  intro i hi _
  rw [Dev.length_bytes] at hi
  rw [Dev.getElem_bytes, Dev.getElem_bytes, h i hi]

theorem Dev.bytes_putBytes (d : Dev) (a : Nat) (bs : List Byte) (h : a + bs.length ≤ localSpace) :
    (d.putBytes a bs).bytes a bs.length = bs := by
  apply List.ext_getElem (by simp)
  intro i _ hi
  rw [Dev.getElem_bytes]
  exact Mem.get_write_in _ _ _ _ hi h

theorem Dev.keepsMem_putBytes (d : Dev) (a : Nat) (bs : List Byte) : d.KeepsMem (d.putBytes a bs) a bs.length :=
  fun c hc => Mem.get_write_out d.mem a bs c hc

theorem Dev.ld_succ (d : Dev) (a n : Nat) : d.ld a (n + 1) = (d.mem.get a).toNat + 256 * d.ld (a + 1) n := rfl

@[simp] theorem Dev.ld_zero (d : Dev) (a : Nat) : d.ld a 0 = 0 := rfl

theorem Dev.ld_lt (d : Dev) (a n : Nat) : d.ld a n < 2 ^ (8 * n) := by
  simpa [Dev.ld] using leNat_lt (d.bytes a n)

theorem Dev.ld_st_same (d : Dev) (a n v : Nat) (h : a + n ≤ localSpace) : (d.st a n v).ld a n = v % 2 ^ (8 * n) := by
  have hb := d.bytes_putBytes a (leBytes n v) (by simpa using h)
  rw [length_leBytes] at hb
  rw [Dev.ld, Dev.st, hb, leNat_leBytes]

theorem Dev.ld_st_apart (d : Dev) (a n b m v : Nat) (h : apart b m a n) : (d.st a n v).ld b m = d.ld b m := by
  have hk := d.keepsMem_putBytes a (leBytes n v)
  rw [length_leBytes] at hk
  unfold apart at h
  rw [Dev.ld, Dev.ld, Dev.st, Dev.bytes_congr fun i hi => hk _ (by omega)]

/-! ### Packed elements (R51) -/

/-- First byte of the group of whole bytes that holds element `k` of a packed vector. -/
def elemGroup (base w k : Nat) : Nat :=
  if w = 6 then base + 3 * (k / 4) else if w < 8 then base + k * w / 8 else base + k * (w / 8)

/-- Bytes of a group. -/
def elemGroupLen (w : Nat) : Nat := if w = 6 then 3 else if w < 8 then 1 else w / 8

/-- Lowest bit of element `k` in the number its group holds. -/
def elemShift (w k : Nat) : Nat := if w = 6 then 6 * (k % 4) else if w < 8 then k * w % 8 else 0

/-- The widths of the element formats (R50). -/
def elemWidths : List Nat := [1, 2, 4, 6, 8, 16, 32, 64]

theorem mem_elemWidths {w : Nat} :
    w ∈ elemWidths ↔ w = 1 ∨ w = 2 ∨ w = 4 ∨ w = 6 ∨ w = 8 ∨ w = 16 ∨ w = 32 ∨ w = 64 := by simp [elemWidths]

theorem elemGroup_end (base : Nat) {w : Nat} (hw : w ∈ elemWidths) (k : Nat) :
    elemGroup base w k + elemGroupLen w ≤ base + (k + 4) * 8 := by
  obtain rfl | rfl | rfl | rfl | rfl | rfl | rfl | rfl := mem_elemWidths.mp hw <;>
    simp [elemGroup, elemGroupLen] <;> omega

theorem elemShift_end {w : Nat} (hw : w ∈ elemWidths) (k : Nat) : elemShift w k + w ≤ 8 * elemGroupLen w := by
  obtain rfl | rfl | rfl | rfl | rfl | rfl | rfl | rfl := mem_elemWidths.mp hw <;>
    simp [elemShift, elemGroupLen] <;> omega

/-- Two elements have no bit in common: their groups lie apart, or it is one group and their bits in it lie apart. -/
theorem elem_apart (base : Nat) {w j k : Nat} (hw : w ∈ elemWidths) (hjk : j ≠ k) :
    apart (elemGroup base w j) (elemGroupLen w) (elemGroup base w k) (elemGroupLen w) ∨
      elemGroup base w j = elemGroup base w k ∧
        (elemShift w j + w ≤ elemShift w k ∨ elemShift w k + w ≤ elemShift w j) := by
  obtain rfl | rfl | rfl | rfl | rfl | rfl | rfl | rfl := mem_elemWidths.mp hw <;>
    simp [apart, elemGroup, elemGroupLen, elemShift] <;> omega

theorem Dev.elem_eq_bits (d : Dev) (base : Nat) {w : Nat} (hw : w ∈ elemWidths) (k : Nat) :
    d.elem base w k = bits (d.ld (elemGroup base w k) (elemGroupLen w)) (elemShift w k) w := by
  unfold Dev.elem elemGroup elemGroupLen elemShift
  split_ifs with h6 h8
  · rw [h6]
  · rfl
  · have hlt := d.ld_lt (base + k * (w / 8)) (w / 8)
    have hdvd : 8 * (w / 8) = w := by rw [mem_elemWidths] at hw; omega
    rw [hdvd] at hlt
    rw [bits, Nat.pow_zero, Nat.div_one, Nat.mod_eq_of_lt hlt]

/-- A store that puts an element in its place replaces its bits in the number its group holds. -/
theorem Dev.putElem_eq_st (d : Dev) (base : Nat) {w : Nat} (hw : w ∈ elemWidths) (k v : Nat) :
    d.putElem base w k v = d.st (elemGroup base w k) (elemGroupLen w)
      (putBits (d.ld (elemGroup base w k) (elemGroupLen w)) (elemShift w k) w v) := by
  unfold Dev.putElem elemGroup elemGroupLen elemShift
  split_ifs with h6 h8
  · rw [h6]
  · rfl
  · have hlt := d.ld_lt (base + k * (w / 8)) (w / 8)
    have hdvd : 8 * (w / 8) = w := by rw [mem_elemWidths] at hw; omega
    have hput : putBits (d.ld (base + k * (w / 8)) (w / 8)) 0 w v = v % 2 ^ (8 * (w / 8)) := by
      rw [hdvd] at hlt ⊢
      rw [putBits_eq, Nat.pow_zero, Nat.div_one, Nat.div_eq_of_lt hlt]
      simp [Nat.mod_one]
    rw [hput, Dev.st, Dev.st, leBytes_mod]

section
variable (d : Dev) (base k v : Nat) {w : Nat} (hw : w ∈ elemWidths) (hfit : base + (k + 4) * 8 ≤ localSpace)
include hw hfit

theorem Dev.elem_putElem_same : (d.putElem base w k v).elem base w k = v % 2 ^ w := by
  have hend := elemGroup_end base hw k
  rw [Dev.elem_eq_bits _ _ hw, Dev.putElem_eq_st _ _ hw, Dev.ld_st_same _ _ _ _ (by omega),
    bits_mod _ _ _ _ (elemShift_end hw k), bits_putBits_same]

theorem Dev.elem_putElem_ne {j : Nat} (hjk : j ≠ k) : (d.putElem base w k v).elem base w j = d.elem base w j := by
  have hend := elemGroup_end base hw k
  rw [Dev.elem_eq_bits _ _ hw, Dev.elem_eq_bits _ _ hw, Dev.putElem_eq_st _ _ hw]
  rcases elem_apart base hw hjk with hgroups | ⟨hgroup, hbits⟩
  · rw [Dev.ld_st_apart _ _ _ _ _ _ hgroups]
  · rw [hgroup, Dev.ld_st_same _ _ _ _ (by omega), bits_mod _ _ _ _ (elemShift_end hw j),
      bits_putBits_apart _ _ _ _ _ hbits]

end

theorem Dev.elem_one (d : Dev) (base k : Nat) :
    d.elem base 1 k = (d.mem.get (base + k / 8)).toNat / 2 ^ (k % 8) % 2 := by
  simp [Dev.elem, Dev.ld_succ, bits]

theorem Dev.elem_four (d : Dev) (base k : Nat) :
    d.elem base 4 k = (d.mem.get (base + k / 2)).toNat / 2 ^ (4 * (k % 2)) % 2 ^ 4 := by
  have hbyte : k * 4 / 8 = k / 2 := by omega
  have hbit : k * 4 % 8 = 4 * (k % 2) := by omega
  simp [Dev.elem, Dev.ld_succ, bits, hbyte, hbit]

theorem Dev.elem_six (d : Dev) (base k : Nat) :
    d.elem base 6 k = ((d.mem.get (base + 3 * (k / 4))).toNat + 2 ^ 8 * (d.mem.get (base + 3 * (k / 4) + 1)).toNat +
      2 ^ 16 * (d.mem.get (base + 3 * (k / 4) + 2)).toNat) / 2 ^ (6 * (k % 4)) % 2 ^ 6 := by
  have hld : d.ld (base + 3 * (k / 4)) 3 = (d.mem.get (base + 3 * (k / 4))).toNat +
      2 ^ 8 * (d.mem.get (base + 3 * (k / 4) + 1)).toNat + 2 ^ 16 * (d.mem.get (base + 3 * (k / 4) + 2)).toNat := by
    simp only [Dev.ld_succ, Dev.ld_zero]
    ring
  rw [Dev.elem, if_pos rfl, hld, bits]

/-- Settles O5: a written range of bytes reads back and the rest is kept; an element is a range of bits of the number its
group of bytes holds (R51), and a write replaces that range only. -/
theorem memoryReadsBack : Obligations.MemoryReadsBack := by
  unfold Obligations.MemoryReadsBack
  refine ⟨?bytes, ?packing, ?elements⟩
  case bytes =>
    intro d a bs h
    exact ⟨d.bytes_putBytes a bs h, d.keepsMem_putBytes a bs, (d.putBytes a bs).mem.wf⟩
  case packing =>
    intro d base k f
    refine ⟨?_, ?_, ?_⟩
    · rintro rfl
      exact d.elem_one base k
    · intro hf
      have hwidth : f.width = 4 := by revert f; decide
      rw [hwidth, d.elem_four]
    · intro hf
      have hwidth : f.width = 6 := by revert f; decide
      rw [hwidth, d.elem_six]
  case elements =>
    intro d base w k j v hw hfit
    have hk : base + (k + 4) * 8 ≤ localSpace := by omega
    exact ⟨d.elem_putElem_same base k v hw hk, d.elem_putElem_ne base k v hw hk⟩

end Sys2Proof.Machine
end

section
/-!
PROOFS. The update rules of the tiles (O14, R58 to R63): the counters and the status field of a tile's page, each rule under
the generator as an update that leaves the device as it was, and what an update then counts and writes.
-/

namespace Sys2Proof.Machine

/-! ### Fields of registers -/

theorem pageOf_fieldKey {pg : Page} {o lo : Nat} (hp : pageOf (pg.base + o) = some (pg, o)) (hlo : lo < 32) :
    pageOf (fieldKey (pg.base + o) lo / 32) = some (pg, o) ∧ fieldKey (pg.base + o) lo % 32 = lo := by
  have hkey : fieldKey (pg.base + o) lo / 32 = pg.base + o := by unfold fieldKey; omega
  exact ⟨by rw [hkey, hp], by unfold fieldKey; omega⟩

/-- A field of a page holds what its width and its reserved codes allow (R13). -/
theorem regLegal_of_field {pg : Page} {o lo v : Nat} {f : Field} (hp : pageOf (pg.base + o) = some (pg, o))
    (hlo : lo < 32) (hf : (fieldsAt pg o).find? (fun f => f.lo == lo) = some f) :
    regLegal (fieldKey (pg.base + o) lo) v = (decide (v < 2 ^ f.width) && f.ok v) := by
  obtain ⟨hpage, hlow⟩ := pageOf_fieldKey hp hlo
  rw [regLegal, hpage]
  simp only [hlow, hf]

theorem resetVal_of_field {pg : Page} {o lo : Nat} {f : Field} (hp : pageOf (pg.base + o) = some (pg, o))
    (hlo : lo < 32) (hf : (fieldsAt pg o).find? (fun f => f.lo == lo) = some f) :
    resetVal (fieldKey (pg.base + o) lo) = f.reset := by
  obtain ⟨hpage, hlow⟩ := pageOf_fieldKey hp hlo
  rw [resetVal, hpage]
  simp only [hlow, hf]

/-! ### Counters of a tile's page (R82) -/

/-- The offsets of the counters an update adds to: updates, changes of state and cold skips. -/
def updateCounters : List Nat := [0x040, 0x048, 0x050]

theorem tile_counter_field (s : Nat) {o : Nat} (ho : o ∈ updateCounters) :
    ∃ name, (fieldsAt (.tile s) o).find? (fun f => f.lo == 0) = some (fRo name 0 64) := by
  simp only [updateCounters, List.mem_cons, List.not_mem_nil, or_false] at ho
  obtain rfl | rfl | rfl := ho <;> exact ⟨_, rfl⟩

theorem updateCounters_in_page {o : Nat} (ho : o ∈ updateCounters) : o < 0x4000 := by
  revert o; decide

section
variable {s o : Nat} (hs : s < 144) (ho : o ∈ updateCounters)
include hs ho

theorem regLegal_counter (v : Nat) : regLegal (fieldKey ((Page.tile s).base + o) 0) v = decide (v < 2 ^ 64) := by
  obtain ⟨name, hf⟩ := tile_counter_field s ho
  rw [regLegal_of_field (pageOf_tile s o hs (updateCounters_in_page ho)) (by omega) hf]
  exact Bool.and_true _

theorem Dev.rd_counter_lt (d : Dev) : d.rd (.tile s) o 0 < 2 ^ 64 := by
  rcases d.regs.get_legal (fieldKey ((Page.tile s).base + o) 0) with hlegal | hreset
  · rw [regLegal_counter hs ho] at hlegal
    exact of_decide_eq_true hlegal
  · obtain ⟨name, hf⟩ := tile_counter_field s ho
    rw [resetVal_of_field (pageOf_tile s o hs (updateCounters_in_page ho)) (by omega) hf] at hreset
    rw [Dev.rd, hreset]
    simp [fRo]

theorem Dev.rd_counter_mod (d : Dev) : d.rd (.tile s) o 0 % 2 ^ 64 = d.rd (.tile s) o 0 :=
  Nat.mod_eq_of_lt (d.rd_counter_lt hs ho)

theorem Dev.rd_bump_counter (d : Dev) :
    (d.bump (.tile s) o 1).rd (.tile s) o 0 = (d.rd (.tile s) o 0 + 1) % 2 ^ 64 := by
  rw [Dev.bump, if_neg (by omega), Dev.rd_wr_self]
  rw [regLegal_counter hs ho, decide_eq_true (Nat.mod_lt _ (by omega))]

end

theorem Dev.rd_bump_ne (d : Dev) (pg : Page) {o n o' lo : Nat}
    (h : fieldKey (pg.base + o') lo ≠ fieldKey (pg.base + o) 0) : (d.bump pg o n).rd pg o' lo = d.rd pg o' lo :=
  d.get_bump_ne _ _ _ _ h

/-- The saturation status of a tile takes a 1. -/
theorem regLegal_saturated {s : Nat} (hs : s < 144) : regLegal (fieldKey ((Page.tile s).base + 0x104) 3) 1 = true := by
  rw [regLegal_of_field (pageOf_tile s 0x104 hs (by omega)) (by omega) rfl]
  rfl

/-! ### Memory beside the registers -/

@[simp] theorem Dev.bump_mem (d : Dev) (pg : Page) (o n : Nat) : (d.bump pg o n).mem = d.mem := by
  obtain ⟨r, hr⟩ := d.bump_regs pg o n
  rw [hr]

@[simp] theorem Dev.rd_putElem (d : Dev) (base w k v : Nat) (pg : Page) (o lo : Nat) :
    (d.putElem base w k v).rd pg o lo = d.rd pg o lo := by
  unfold Dev.putElem
  split_ifs <;> rfl

theorem Dev.ld_of_mem_eq {d e : Dev} (h : e.mem = d.mem) (a n : Nat) : e.ld a n = d.ld a n :=
  congrArg leNat (Dev.bytes_congr fun i _ => by rw [h])

theorem Dev.putElem_mem_of_mem_eq {d e : Dev} (h : e.mem = d.mem) (base w k v : Nat) :
    (e.putElem base w k v).mem = (d.putElem base w k v).mem := by
  simp only [Dev.putElem, Dev.ld_of_mem_eq h]
  split_ifs <;> simp [Dev.st, Dev.putBytes, h]

/-! ### What an update counts and writes -/

/-- The outcome of the rule that the variable's kind and the sweep name (R57), before anything is counted. -/
def TileCtx.rule (c : TileCtx) (sw : Sweep) (dr : Drawer) (first v r : Nat) (d : Dev) : Upd × Dev :=
  let e := c.desc d v
  let h := fun k => d.ld (e.fieldAddr r k) 4
  if e.kind = 0 then
    if sw.spinRule then metropolis dr (c.beta d r) (h 0) (c.state d e r) r (first + v) d
    else heatBath dr (c.beta d r) (h 0) r (first + v) d
  else if e.kind = 1 then
    if sw.pottsRule then pottsMetropolis dr (c.beta d r) e.q h (c.state d e r) r (first + v) d
    else categoricalGibbs dr (c.beta d r) e.q h r (first + v) d
  else gaussianDraw dr (c.beta d r) e.variance (h 0) r (first + v) d

section
variable (c : TileCtx) {sw : Sweep} {dr : Drawer} {first v r : Nat} {d : Dev}

theorem TileCtx.rule_heatBath (hkind : (c.desc d v).kind = 0) (hsweep : sw.spinRule = false) :
    c.rule sw dr first v r d =
      heatBath dr (c.beta d r) (d.ld ((c.desc d v).fieldAddr r 0) 4) r (first + v) d := by
  simp only [TileCtx.rule, hkind, hsweep, if_true, Bool.false_eq_true, if_false]

theorem TileCtx.rule_metropolis (hkind : (c.desc d v).kind = 0) (hsweep : sw.spinRule = true) :
    c.rule sw dr first v r d = metropolis dr (c.beta d r) (d.ld ((c.desc d v).fieldAddr r 0) 4)
      (c.state d (c.desc d v) r) r (first + v) d := by
  simp only [TileCtx.rule, hkind, hsweep, if_true]

theorem TileCtx.rule_pottsMetropolis (hkind : (c.desc d v).kind = 1) (hsweep : sw.pottsRule = true) :
    c.rule sw dr first v r d = pottsMetropolis dr (c.beta d r) (c.desc d v).q
      (fun k => d.ld ((c.desc d v).fieldAddr r k) 4) (c.state d (c.desc d v) r) r (first + v) d := by
  simp only [TileCtx.rule, hkind, hsweep, one_ne_zero, if_true, if_false]

theorem TileCtx.rule_categoricalGibbs (hkind : (c.desc d v).kind = 1) (hsweep : sw.pottsRule = false) :
    c.rule sw dr first v r d = categoricalGibbs dr (c.beta d r) (c.desc d v).q
      (fun k => d.ld ((c.desc d v).fieldAddr r k) 4) r (first + v) d := by
  simp only [TileCtx.rule, hkind, hsweep, one_ne_zero, if_true, Bool.false_eq_true, if_false]

theorem TileCtx.rule_gaussianDraw (hkind : 2 ≤ (c.desc d v).kind) :
    c.rule sw dr first v r d = gaussianDraw dr (c.beta d r) (c.desc d v).variance
      (d.ld ((c.desc d v).fieldAddr r 0) 4) r (first + v) d := by
  have hspin : (c.desc d v).kind ≠ 0 := by omega
  have hpotts : (c.desc d v).kind ≠ 1 := by omega
  simp only [TileCtx.rule, if_neg hspin, if_neg hpotts]

end

/-- The device with an update counted: the update itself, its cold skip and its saturation. -/
def TileCtx.counted (c : TileCtx) (u : Upd) (d : Dev) : Dev :=
  let d := d.bump c.pg 0x040 1
  let d := if u.cold then d.bump c.pg 0x050 1 else d
  if u.sat then d.wr c.pg 0x104 3 1 else d

/-- An update counts its rule's outcome and writes a new state that differs. -/
theorem TileCtx.update_eq (c : TileCtx) (sw : Sweep) (dr : Drawer) (first v r : Nat) (d : Dev) :
    c.update sw dr first v r d =
      let e := c.desc d v
      let (u, d') := c.rule sw dr first v r d
      if u.new = c.state d e r then (none, c.counted u d')
      else (some ⟨v, r, c.state d e r, u.new⟩, (c.setState (c.counted u d') e r u.new).bump c.pg 0x048 1) := rfl

@[simp] theorem TileCtx.counted_mem (c : TileCtx) (u : Upd) (d : Dev) : (c.counted u d).mem = d.mem := by
  unfold TileCtx.counted
  split_ifs <;> simp

theorem TileCtx.setState_counted_mem (c : TileCtx) (u : Upd) (d : Dev) (e : Desc) (r x : Nat) :
    (c.setState (c.counted u d) e r x).mem = (c.setState d e r x).mem :=
  Dev.putElem_mem_of_mem_eq (c.counted_mem u d) _ _ _ _

@[simp] theorem TileCtx.rd_setState (c : TileCtx) (d : Dev) (e : Desc) (r x : Nat) (pg : Page) (o lo : Nat) :
    (c.setState d e r x).rd pg o lo = d.rd pg o lo := Dev.rd_putElem _ _ _ _ _ _ _ _

section
variable (c : TileCtx) (hs : c.s < 144) (u : Upd) (d : Dev)

/-- A field of the tile's page other than those `counted` writes. -/
theorem TileCtx.rd_counted_ne {o lo : Nat} (h40 : fieldKey (c.pg.base + o) lo ≠ fieldKey (c.pg.base + 0x040) 0)
    (h50 : fieldKey (c.pg.base + o) lo ≠ fieldKey (c.pg.base + 0x050) 0)
    (h104 : fieldKey (c.pg.base + o) lo ≠ fieldKey (c.pg.base + 0x104) 3) :
    (c.counted u d).rd c.pg o lo = d.rd c.pg o lo := by
  unfold TileCtx.counted
  split_ifs <;> simp only [Dev.rd_wr_ne _ _ _ _ _ _ _ _ h104, Dev.rd_bump_ne _ _ h50, Dev.rd_bump_ne _ _ h40]

include hs

theorem TileCtx.rd_counted_updates : (c.counted u d).rd c.pg 0x040 0 = (d.rd c.pg 0x040 0 + 1) % 2 ^ 64 := by
  have hcount : (d.bump c.pg 0x040 1).rd c.pg 0x040 0 = (d.rd c.pg 0x040 0 + 1) % 2 ^ 64 :=
    d.rd_bump_counter hs (by decide)
  have h50 : fieldKey (c.pg.base + 0x040) 0 ≠ fieldKey (c.pg.base + 0x050) 0 := by unfold fieldKey; omega
  have h104 : fieldKey (c.pg.base + 0x040) 0 ≠ fieldKey (c.pg.base + 0x104) 3 := by unfold fieldKey; omega
  unfold TileCtx.counted
  split_ifs <;> simp only [Dev.rd_wr_ne _ _ _ _ _ _ _ _ h104, Dev.rd_bump_ne _ _ h50, hcount]

theorem TileCtx.rd_counted_coldSkips :
    (c.counted u d).rd c.pg 0x050 0 = (d.rd c.pg 0x050 0 + u.cold.toNat) % 2 ^ 64 := by
  have hcount : ∀ e : Dev, (e.bump c.pg 0x050 1).rd c.pg 0x050 0 = (e.rd c.pg 0x050 0 + 1) % 2 ^ 64 := fun e =>
    e.rd_bump_counter hs (by decide)
  have hkeep : (d.rd c.pg 0x050 0) % 2 ^ 64 = d.rd c.pg 0x050 0 := d.rd_counter_mod hs (by decide)
  have h40 : fieldKey (c.pg.base + 0x050) 0 ≠ fieldKey (c.pg.base + 0x040) 0 := by unfold fieldKey; omega
  have h104 : fieldKey (c.pg.base + 0x050) 0 ≠ fieldKey (c.pg.base + 0x104) 3 := by unfold fieldKey; omega
  unfold TileCtx.counted
  cases u.cold
  case false =>
    simp only [Bool.toNat_false, Nat.add_zero, hkeep, Bool.false_eq_true, if_false]
    split_ifs <;> simp only [Dev.rd_wr_ne _ _ _ _ _ _ _ _ h104, Dev.rd_bump_ne _ _ h40]
  case true =>
    simp only [Bool.toNat_true, if_true]
    split_ifs <;> simp only [Dev.rd_wr_ne _ _ _ _ _ _ _ _ h104, hcount, Dev.rd_bump_ne _ _ h40]

theorem TileCtx.rd_counted_saturated :
    (c.counted u d).rd c.pg 0x104 3 = if u.sat then 1 else d.rd c.pg 0x104 3 := by
  have hset : ∀ e : Dev, (e.wr c.pg 0x104 3 1).rd c.pg 0x104 3 = 1 := fun e =>
    e.rd_wr_self c.pg 0x104 3 1 (regLegal_saturated hs)
  have h40 : fieldKey (c.pg.base + 0x104) 3 ≠ fieldKey (c.pg.base + 0x040) 0 := by unfold fieldKey; omega
  have h50 : fieldKey (c.pg.base + 0x104) 3 ≠ fieldKey (c.pg.base + 0x050) 0 := by unfold fieldKey; omega
  unfold TileCtx.counted
  split_ifs <;> simp only [hset, Dev.rd_bump_ne _ _ h50, Dev.rd_bump_ne _ _ h40]

end

/-- The effect of one update: the state `new`, with or without a cold skip and a saturation, counted, and written where
it is a change. -/
def TileCtx.Becomes (c : TileCtx) (sw : Sweep) (t first v r : Nat) (d : Dev) (new : Nat) (cold sat : Bool) : Prop :=
  let e := c.desc d v
  let s := c.state d e r
  let o := c.update sw (genDraw c.seed t) first v r d
  o.1 = (if new = s then none else some ⟨v, r, s, new⟩) ∧
  o.2.mem = (if new = s then d.mem else (c.setState d e r new).mem) ∧
  o.2.rd c.pg 0x040 0 = (d.rd c.pg 0x040 0 + 1) % 2 ^ 64 ∧
  o.2.rd c.pg 0x050 0 = (d.rd c.pg 0x050 0 + cold.toNat) % 2 ^ 64 ∧
  o.2.rd c.pg 0x048 0 = (d.rd c.pg 0x048 0 + (if new = s then 0 else 1)) % 2 ^ 64 ∧
  o.2.rd c.pg 0x104 3 = (if sat then 1 else d.rd c.pg 0x104 3)

/-- A rule that leaves the device as it was has the effect its outcome names. -/
theorem TileCtx.becomes_of_rule {c : TileCtx} (hs : c.s < 144) {sw : Sweep} {t first v r : Nat} {d : Dev} {new : Nat}
    {cold sat : Bool} (hrule : c.rule sw (genDraw c.seed t) first v r d = (⟨new, cold, sat⟩, d)) :
    c.Becomes sw t first v r d new cold sat := by
  let u : Upd := ⟨new, cold, sat⟩
  have hupdates := c.rd_counted_updates hs u d
  have hskips := c.rd_counted_coldSkips hs u d
  have hsat := c.rd_counted_saturated hs u d
  have hchanges : (c.counted u d).rd c.pg 0x048 0 = d.rd c.pg 0x048 0 :=
    c.rd_counted_ne u d (by unfold fieldKey; omega) (by unfold fieldKey; omega) (by unfold fieldKey; omega)
  have hapart : ∀ o lo, o ≠ 0x048 → lo < 32 → fieldKey (c.pg.base + o) lo ≠ fieldKey (c.pg.base + 0x048) 0 := by
    intro o lo ho hlo; unfold fieldKey; omega
  unfold TileCtx.Becomes
  rw [TileCtx.update_eq, hrule]
  by_cases hsame : new = c.state d (c.desc d v) r
  · have hkeep : d.rd c.pg 0x048 0 % 2 ^ 64 = d.rd c.pg 0x048 0 := d.rd_counter_mod hs (by decide)
    simp only [if_pos hsame]
    exact ⟨trivial, c.counted_mem u d, hupdates, hskips, hchanges.trans hkeep.symm, hsat⟩
  · have hbump : ∀ e : Dev, (e.bump c.pg 0x048 1).rd c.pg 0x048 0 = (e.rd c.pg 0x048 0 + 1) % 2 ^ 64 := fun e =>
      e.rd_bump_counter hs (by decide)
    simp only [if_neg hsame]
    refine ⟨trivial, ?_, ?_, ?_, ?_, ?_⟩
    · rw [Dev.bump_mem, TileCtx.setState_counted_mem]
    · rw [Dev.rd_bump_ne _ _ (hapart 0x040 0 (by decide) (by decide)), TileCtx.rd_setState, hupdates]
    · rw [Dev.rd_bump_ne _ _ (hapart 0x050 0 (by decide) (by decide)), TileCtx.rd_setState, hskips]
    · rw [hbump, TileCtx.rd_setState, hchanges]
    · rw [Dev.rd_bump_ne _ _ (hapart 0x104 3 (by decide) (by decide)), TileCtx.rd_setState, hsat]

/-- A rule of three branches, sure of its outcome, cold skip or draw (R58 to R60), has the effect of the branch taken. -/
theorem TileCtx.becomes_of_branches {c : TileCtx} (hs : c.s < 144) {sw : Sweep} {t first v r : Nat} {d : Dev}
    {sure skip : Bool} {u₁ u₂ u₃ : Upd}
    (hrule : c.rule sw (genDraw c.seed t) first v r d = (if sure then u₁ else if skip then u₂ else u₃, d)) :
    (sure = true → c.Becomes sw t first v r d u₁.new u₁.cold u₁.sat) ∧
    (sure = false → skip = true → c.Becomes sw t first v r d u₂.new u₂.cold u₂.sat) ∧
    (sure = false → skip = false → c.Becomes sw t first v r d u₃.new u₃.cold u₃.sat) := by
  refine ⟨?_, ?_, ?_⟩
  · rintro rfl
    exact TileCtx.becomes_of_rule hs hrule
  · rintro rfl rfl
    exact TileCtx.becomes_of_rule hs hrule
  · rintro rfl rfl
    exact TileCtx.becomes_of_rule hs hrule

/-! ### The rules under the generator (R57, R112) -/

theorem u24_draw (x : DWord) : u24 x.toNat = u24of x := by
  rw [u24, u24of, BitVec.toNat_ushiftRight, Nat.shiftRight_eq_div_pow]

theorem u32_draw (x : DWord) : u32 x.toNat = u32of x := by
  rw [u32, u32of, BitVec.toNat_ushiftRight, Nat.shiftRight_eq_div_pow]

theorem genDraw_eq (seed t purpose r g data : Nat) (d : Dev) :
    genDraw seed t purpose r g data d = ((draw seed (stream r purpose) g t data).toNat, d) := rfl

/-- The outcome of a Gaussian draw: an infinite value becomes the largest finite one of its sign (R62). -/
def gaussianUpd (x : Nat) : Upd :=
  match f32 x with
  | .inf s => ⟨if s then 0xFF7FFFFF else 0x7F7FFFFF, false, true⟩
  | _ => ⟨x, false, false⟩

theorem gaussianUpd_of_inf {x : Nat} {s : Bool} (h : f32 x = .inf s) :
    gaussianUpd x = ⟨if s then 0xFF7FFFFF else 0x7F7FFFFF, false, true⟩ := by
  rw [gaussianUpd, h]

theorem gaussianUpd_of_finite {x : Nat} (h : ∀ s, f32 x ≠ .inf s) : gaussianUpd x = ⟨x, false, false⟩ := by
  unfold gaussianUpd
  split
  · exact absurd ‹_› (h _)
  · rfl

section
variable (seed t beta r g : Nat) (d : Dev)

/-- Heat-bath (R58). -/
theorem heatBath_genDraw (h : Nat) : heatBath (genDraw seed t) beta h r g d =
    let y := f32mul beta (f32OfFx32 h)
    let x := f32add y y
    (if (f32 lambdaMax).lt (f32 x) then ⟨1, true, false⟩
      else if (f32 x).lt (f32 (f32neg lambdaMax)) then ⟨0, true, false⟩
      else ⟨if (f32 (logit (u24of (draw seed (stream r 0x00) g t (h % 2 ^ 16))))).lt (f32 x) then 1 else 0, false, false⟩,
      d) := by
  simp only [heatBath, genDraw_eq, u24_draw, Bool.toNat, Bool.cond_eq_ite]
  split_ifs <;> rfl

/-- Metropolis of a spin (R59). -/
theorem metropolis_genDraw (h s : Nat) : metropolis (genDraw seed t) beta h s r g d =
    let y := f32mul beta (f32OfFx32 h)
    let x := f32add y y
    let a := if s = 1 then x else f32neg x
    (if (f32 a).le .zero then ⟨1 - s % 2, false, false⟩
      else if (f32 a0F32).le (f32 a) then ⟨s, true, false⟩
      else ⟨if u24of (draw seed (stream r 0x01) g t (h % 2 ^ 16)) < expt a then 1 - s % 2 else s, false, false⟩, d) := by
  simp only [metropolis, genDraw_eq, u24_draw]
  split_ifs <;> rfl

/-- Metropolis of a Potts variable (R60): `k` is the proposal. -/
theorem pottsMetropolis_genDraw (q : Nat) (h : Nat → Nat) (s : Nat) : pottsMetropolis (genDraw seed t) beta q h s r g d =
    let k0 := u32of (draw seed (stream r 0x02) g t (h s % 2 ^ 16)) * (q - 1) / 2 ^ 32
    let k := if s ≤ k0 then k0 + 1 else k0
    let a := f32mul beta (f32ofInt (toSigned 32 (h s) - toSigned 32 (h k)) (-16))
    (if (f32 a).le .zero then ⟨k, false, false⟩
      else if (f32 a0F32).le (f32 a) then ⟨s, true, false⟩
      else ⟨if u24of (draw seed (stream r 0x01) g t (h s % 2 ^ 16)) < expt a then k else s, false, false⟩, d) := by
  simp only [pottsMetropolis, genDraw_eq, u24_draw, u32_draw]
  split_ifs <;> rfl

/-- The draw of a Gaussian unit (R62). -/
theorem gaussianDraw_genDraw (variance h : Nat) : gaussianDraw (genDraw seed t) beta variance h r g d =
    (gaussianUpd (f32add (f32mul variance (f32OfFx32 h)) (f32mul (f32sqrt (f32div variance beta))
      (normal (u32of (draw seed (stream r 0x03) g t (h % 2 ^ 16)))))), d) := by
  simp only [gaussianDraw, genDraw_eq, u32_draw]
  split
  next hinf => rw [gaussianUpd_of_inf hinf]
  next hfinite => rw [gaussianUpd_of_finite hfinite]

/-- The score of state `k` in categorical Gibbs (R61). -/
def gibbsScore (h : Nat → Nat) (k : Nat) : Nat :=
  f32add (f32mul beta (f32OfFx32 (h k))) (gumbel (u24of (draw seed (stream r (0x40 + k)) g t (h k % 2 ^ 16))))

/-- Categorical Gibbs draws the scores one by one, and takes the lowest index of a largest one (R61). -/
theorem categoricalGibbs_genDraw (q : Nat) (h : Nat → Nat) : categoricalGibbs (genDraw seed t) beta (q + 1) h r g d =
    (⟨argMax ((List.range' 1 q).map (gibbsScore seed t beta r g h)) 1 0 (gibbsScore seed t beta r g h 0), false, false⟩,
      d) := by
  have hscores : ∀ (ks zs : List Nat), ks.foldl (fun (acc : List Nat × Dev) k =>
      (acc.1 ++ [gibbsScore seed t beta r g h k], acc.2)) (zs, d) = (zs ++ ks.map (gibbsScore seed t beta r g h), d) := by
    intro ks
    induction ks with
    | nil => simp
    | cons k ks ih => intro zs; simp [ih]
  simp only [categoricalGibbs, genDraw_eq, u24_draw, ← gibbsScore.eq_def, hscores, List.range_eq_range', List.range'_succ,
    List.map_cons, List.nil_append]

end

/-! ### The lowest index of a largest score -/

section
variable {z : Nat → Nat} {k : Nat}

/-- The best so far stays the best when no later score is larger. -/
theorem argMax_of_none_larger (n i : Nat) (h : ∀ j < i + n, (f32 (z k)).lt (f32 (z j)) = false) :
    argMax ((List.range' i n).map z) i k (z k) = k := by
  induction n generalizing i with
  | zero => rfl
  | succ n ih =>
    rw [List.range'_succ, List.map_cons, argMax, h i (by omega)]
    exact ih (i + 1) fun j hj => h j (by omega)

/-- The index whose score is larger than all before it, and no smaller than any, is found. -/
theorem argMax_of_largest (n i best : Nat) (hbest : best < k) (hi : i ≤ k) (hk : k < i + n)
    (hbefore : ∀ j < k, (f32 (z j)).lt (f32 (z k)) = true)
    (hall : ∀ j < i + n, (f32 (z k)).lt (f32 (z j)) = false) :
    argMax ((List.range' i n).map z) i best (z best) = k := by
  induction n generalizing i best with
  | zero => omega
  | succ n ih =>
    rw [List.range'_succ, List.map_cons, argMax]
    have hrest : ∀ j < i + 1 + n, (f32 (z k)).lt (f32 (z j)) = false := fun j hj => hall j (by omega)
    rcases Nat.eq_or_lt_of_le hi with rfl | hlt
    · rw [if_pos (hbefore best hbest)]
      exact argMax_of_none_larger n (i + 1) hrest
    · split
      · exact ih (i + 1) i hlt hlt (by omega) hrest
      · exact ih (i + 1) best hbest hlt (by omega) hrest

/-- Categorical Gibbs takes the state whose score is larger than all before it, and no smaller than any (R61). -/
theorem categoricalGibbs_of_largest {seed t beta r g q : Nat} {d : Dev} {h : Nat → Nat}
    (hz : z = gibbsScore seed t beta r g h) (hk : k < q) (hbefore : ∀ j < k, (f32 (z j)).lt (f32 (z k)) = true)
    (hall : ∀ j < q, (f32 (z k)).lt (f32 (z j)) = false) :
    categoricalGibbs (genDraw seed t) beta q h r g d = (⟨k, false, false⟩, d) := by
  obtain ⟨n, rfl⟩ : ∃ n, q = n + 1 := ⟨q - 1, by omega⟩
  rw [categoricalGibbs_genDraw, ← hz]
  have hfound : argMax ((List.range' 1 n).map z) 1 0 (z 0) = k := by
    rcases Nat.eq_zero_or_pos k with rfl | hpos
    · exact argMax_of_none_larger n 1 fun j hj => hall j (by omega)
    · exact argMax_of_largest n 1 0 hpos hpos (by omega) hbefore fun j hj => hall j (by omega)
  rw [hfound]

end

/-- Settles O14: each rule under the generator leaves the device as it was (its equation above), and an update counts and
writes what its rule's outcome names. -/
theorem updatesFollowRules : Obligations.UpdatesFollowRules := by
  unfold Obligations.UpdatesFollowRules
  intro d c sw t first v r hs e s β h x becomes y xs a
  refine ⟨?heatBath, ?metropolis, ?pottsMetropolis, ?categoricalGibbs, ?gaussian⟩
  case heatBath =>
    intro hkind hsweep
    have hrule : c.rule sw (genDraw c.seed t) first v r d = _ :=
      (c.rule_heatBath hkind hsweep).trans (heatBath_genDraw ..)
    have heffect := TileCtx.becomes_of_branches hs hrule
    exact heffect
  case metropolis =>
    intro hkind hsweep
    have hrule : c.rule sw (genDraw c.seed t) first v r d = _ :=
      (c.rule_metropolis hkind hsweep).trans (metropolis_genDraw ..)
    have heffect := TileCtx.becomes_of_branches hs hrule
    exact heffect
  case pottsMetropolis =>
    rintro hkind hsweep k0 k a rfl rfl rfl
    have hrule : c.rule sw (genDraw c.seed t) first v r d = _ :=
      (c.rule_pottsMetropolis hkind hsweep).trans (pottsMetropolis_genDraw ..)
    have heffect := TileCtx.becomes_of_branches hs hrule
    exact heffect
  case categoricalGibbs =>
    intro hkind hsweep z _ k hk hall hbefore
    exact TileCtx.becomes_of_rule hs
      ((c.rule_categoricalGibbs hkind hsweep).trans (categoricalGibbs_of_largest rfl hk hbefore hall))
  case gaussian =>
    intro hkind μ sd x'
    have hrule : c.rule sw (genDraw c.seed t) first v r d = (gaussianUpd x', d) :=
      (c.rule_gaussianDraw hkind).trans (gaussianDraw_genDraw ..)
    refine ⟨fun hfinite => ?_, fun hinf => ?_, fun hinf => ?_⟩ <;> refine TileCtx.becomes_of_rule hs (hrule.trans ?_)
    · rw [gaussianUpd_of_finite hfinite]
    · rw [gaussianUpd_of_inf hinf, if_neg (by decide)]
    · rw [gaussianUpd_of_inf hinf, if_pos rfl]

end Sys2Proof.Machine
end

section
/-!
PROOFS. The layout of flits, codewords and control words (R296 to R298), and the limit of 32 unacknowledged flits (O55,
R301). A flit and a codeword are sums of parts that stand one above the other, so a range of bits lies in one part.
-/

namespace Sys2Proof.Machine

/-! ### Numbers of two parts -/

theorem bits_zero_of_lt {a p : Nat} (ha : a < 2 ^ p) : bits a 0 p = a := by
  rw [bits, Nat.pow_zero, Nat.div_one, Nat.mod_eq_of_lt ha]

/-- A range of bits inside the lower part. -/
theorem bits_add_mul_low (a x : Nat) {p lo w : Nat} (h : lo + w ≤ p) : bits (a + x * 2 ^ p) lo w = bits a lo w := by
  rw [← bits_mod _ lo w p h, Nat.add_mul_mod_self_right, bits_mod a lo w p h]

section
variable {a x p w : Nat} (ha : a < 2 ^ p) (hx : x < 2 ^ w)
include ha hx

/-- The bits of the upper part. -/
theorem bits_add_mul_high : bits (a + x * 2 ^ p) p w = x := by
  rw [bits, Nat.add_mul_div_right _ _ (Nat.two_pow_pos p), Nat.div_eq_of_lt ha, Nat.zero_add, Nat.mod_eq_of_lt hx]

theorem add_mul_lt_two_pow {n : Nat} (hn : w + p = n) : a + x * 2 ^ p < 2 ^ n := by
  rw [← hn, pow_add, ← Nat.div_lt_iff_lt_mul (Nat.two_pow_pos p), Nat.add_mul_div_right _ _ (Nat.two_pow_pos p),
    Nat.div_eq_of_lt ha, Nat.zero_add]
  exact hx

end

theorem bit_eq_bits (n i : Nat) : bit n i = decide (bits n i 1 = 1) := rfl

/-! ### The CRC-32C and the first bytes of a number -/

theorem crcStepRefl_lt {poly : Nat} (hpoly : poly < 2 ^ 32) (n : Nat) {c : Nat} (hc : c < 2 ^ 32) :
    crcStepRefl poly n c < 2 ^ 32 := by
  induction n generalizing c with
  | zero => exact hc
  | succ n ih =>
    have hhalf : c / 2 < 2 ^ 32 := by omega
    rw [crcStepRefl]
    split
    · exact ih (Nat.xor_lt_two_pow hhalf hpoly)
    · exact ih hhalf

theorem crc32c_lt (bs : List Byte) : crc32c bs < 2 ^ 32 := by
  have hfold : ∀ c < 2 ^ 32, bs.foldl (fun c b => crcStepRefl 0x82F63B78 8 (c ^^^ b.toNat)) c < 2 ^ 32 := by
    induction bs with
    | nil => exact fun _ hc => hc
    | cons b bs ih =>
      intro c hc
      have hb : b.toNat < 2 ^ 32 := b.isLt.trans (by decide)
      exact ih _ (crcStepRefl_lt (by decide) 8 (Nat.xor_lt_two_pow hc hb))
  exact Nat.xor_lt_two_pow (hfold _ (by decide)) (by decide)

theorem leBytes_bits (n v : Nat) : leBytes n (bits v 0 (8 * n)) = leBytes n v := by
  rw [bits, Nat.pow_zero, Nat.div_one, leBytes_mod]

theorem take_leBytes (m n v : Nat) : (leBytes (m + n) v).take m = leBytes m v := by
  induction m generalizing v with
  | zero => simp [leBytes]
  | succ m ih => rw [Nat.add_right_comm, leBytes, leBytes, List.take_succ_cons, ih]

/-! ### A flit (R298) -/

/-- The first two bytes of a flit. -/
def flitHeader (seq vc : Nat) : Nat := seq + vc * 2 ^ 8

/-- The bytes of a flit that its CRC covers. -/
def flitLow (seq vc body : Nat) : Nat := flitHeader seq vc + body * 2 ^ 16

section
variable {seq vc body : Nat} (hseq : seq < 2 ^ 8) (hvc : vc < 2 ^ 2) (hbody : body < 2 ^ 2000)
include hseq hvc

theorem flitHeader_lt : flitHeader seq vc < 2 ^ 16 := by
  unfold flitHeader
  omega

/-- `seq` in byte 0, `vc` in the two bits above it, and neither the idle bit nor a reserved one (R298). -/
theorem bits_flitHeader : bits (flitHeader seq vc) 0 8 = seq ∧ bits (flitHeader seq vc) 8 2 = vc ∧
    bits (flitHeader seq vc) 10 1 = 0 ∧ bits (flitHeader seq vc) 11 5 = 0 := by
  unfold flitHeader bits
  omega

include hbody

theorem flitLow_lt : flitLow seq vc body < 2 ^ 2016 :=
  add_mul_lt_two_pow (flitHeader_lt hseq hvc) hbody rfl

theorem mkFlit_eq : mkFlit seq vc body =
    flitLow seq vc body + crc32c (leBytes 252 (flitLow seq vc body)) * 2 ^ 2016 := by
  have hseq' : seq % 256 = seq := Nat.mod_eq_of_lt hseq
  have hvc' : vc % 4 = vc := Nat.mod_eq_of_lt hvc
  rw [mkFlit, hseq', hvc', Nat.mod_eq_of_lt hbody]
  rfl

theorem mkFlit_lt : mkFlit seq vc body < 2 ^ 2048 := by
  rw [mkFlit_eq hseq hvc hbody]
  exact add_mul_lt_two_pow (flitLow_lt hseq hvc hbody) (crc32c_lt _) rfl

theorem bits_mkFlit_low : bits (mkFlit seq vc body) 0 2016 = flitLow seq vc body := by
  rw [mkFlit_eq hseq hvc hbody, bits_add_mul_low _ _ (by omega), bits_zero_of_lt (flitLow_lt hseq hvc hbody)]

theorem bits_mkFlit_crc : bits (mkFlit seq vc body) 2016 32 = crc32c (leBytes 252 (flitLow seq vc body)) := by
  rw [mkFlit_eq hseq hvc hbody]
  exact bits_add_mul_high (flitLow_lt hseq hvc hbody) (crc32c_lt _)

theorem bits_mkFlit_header {lo w : Nat} (h : lo + w ≤ 16) :
    bits (mkFlit seq vc body) lo w = bits (flitHeader seq vc) lo w := by
  rw [mkFlit_eq hseq hvc hbody, bits_add_mul_low _ _ (by omega), flitLow, bits_add_mul_low _ _ h]

theorem flitSeq_mkFlit : flitSeq (mkFlit seq vc body) = seq := by
  obtain ⟨hbits, _⟩ := bits_flitHeader hseq hvc
  rw [flitSeq, bits_mkFlit_header hseq hvc hbody (by omega), hbits]

theorem flitVc_mkFlit : flitVc (mkFlit seq vc body) = vc := by
  obtain ⟨_, hbits, _⟩ := bits_flitHeader hseq hvc
  rw [flitVc, bits_mkFlit_header hseq hvc hbody (by omega), hbits]

theorem flitIdle_mkFlit : flitIdle (mkFlit seq vc body) = false := by
  obtain ⟨_, _, hbit, _⟩ := bits_flitHeader hseq hvc
  rw [flitIdle, bit_eq_bits, bits_mkFlit_header hseq hvc hbody (by omega), hbit]
  rfl

theorem bits_mkFlit_reserved : bits (mkFlit seq vc body) 11 5 = 0 := by
  obtain ⟨_, _, _, hbits⟩ := bits_flitHeader hseq hvc
  rw [bits_mkFlit_header hseq hvc hbody (by omega), hbits]

theorem flitBody_mkFlit : flitBody (mkFlit seq vc body) = body := by
  rw [flitBody, mkFlit_eq hseq hvc hbody, bits_add_mul_low _ _ (by omega), flitLow]
  exact bits_add_mul_high (flitHeader_lt hseq hvc) hbody

/-- The first 252 bytes of a flit are those of its header and body. -/
theorem take_leBytes_mkFlit :
    (leBytes 256 (mkFlit seq vc body)).take 252 = leBytes 252 (flitLow seq vc body) := by
  have hlow : bits (mkFlit seq vc body) 0 (8 * 252) = flitLow seq vc body := bits_mkFlit_low hseq hvc hbody
  rw [take_leBytes 252 4, ← leBytes_bits, hlow]

theorem flitCrcOk_mkFlit : flitCrcOk (mkFlit seq vc body) = true := by
  rw [flitCrcOk, bits_mkFlit_low hseq hvc hbody, bits_mkFlit_crc hseq hvc hbody, beq_self_eq_true]

end

/-! ### A codeword (R296) and its control word (R297) -/

section
variable {word a b : Nat} (hword : word < 2 ^ 64) (ha : a < 2 ^ 2048) (hb : b < 2 ^ 2048)
include hword ha

/-- The control word and flit A. -/
theorem codewordLow_lt : word + a * 2 ^ 64 < 2 ^ 2112 :=
  add_mul_lt_two_pow hword ha rfl

include hb

theorem mkCodeword_eq : mkCodeword word a b = word + a * 2 ^ 64 + b * 2 ^ 2112 := by
  rw [mkCodeword, Nat.mod_eq_of_lt hword, Nat.mod_eq_of_lt ha, Nat.mod_eq_of_lt hb]

theorem mkCodeword_lt : mkCodeword word a b < 2 ^ 4160 := by
  rw [mkCodeword_eq hword ha hb]
  exact add_mul_lt_two_pow (codewordLow_lt hword ha) hb rfl

theorem bits_mkCodeword_word : bits (mkCodeword word a b) 0 64 = word := by
  rw [mkCodeword_eq hword ha hb, bits_add_mul_low _ _ (by omega), bits_add_mul_low _ _ (by omega), bits_zero_of_lt hword]

theorem bits_mkCodeword_flitA : bits (mkCodeword word a b) 64 2048 = a := by
  rw [mkCodeword_eq hword ha hb, bits_add_mul_low _ _ (by omega)]
  exact bits_add_mul_high hword ha

theorem bits_mkCodeword_flitB : bits (mkCodeword word a b) 2112 2048 = b := by
  rw [mkCodeword_eq hword ha hb]
  exact bits_add_mul_high (codewordLow_lt hword ha) hb

end

/-- The acknowledgement and its two flags stand below the credits due. -/
theorem LinkSt.word_eq (l : LinkSt) :
    l.word = l.rxSeq % 2 ^ 8 + l.heard.toNat * 2 ^ 8 + l.nak.toNat * 2 ^ 9 + l.due := by
  rw [LinkSt.word]
  cases l.heard <;> cases l.nak <;> rfl

/-- The control word of a link that owes `k0`, `k1` and `k2` credits (R297). -/
theorem LinkSt.word_laidOut (l : LinkSt) {k0 k1 k2 : Nat} (h0 : k0 < 2 ^ 8) (h1 : k1 < 2 ^ 8) (h2 : k2 < 2 ^ 8)
    (hdue : l.due = 2 ^ 16 * k0 + 2 ^ 24 * k1 + 2 ^ 32 * k2) :
    bits l.word 0 8 = l.rxSeq % 2 ^ 8 ∧ bits l.word 8 1 = l.heard.toNat ∧ bits l.word 9 1 = l.nak.toNat ∧
    bits l.word 10 6 = 0 ∧ bits l.word 16 8 = k0 ∧ bits l.word 24 8 = k1 ∧ bits l.word 32 8 = k2 ∧
    bits l.word 40 24 = 0 := by
  have hheard : l.heard.toNat < 2 := l.heard.toNat_lt
  have hnak : l.nak.toNat < 2 := l.nak.toNat_lt
  rw [LinkSt.word_eq, hdue]
  unfold bits
  omega

/-! ### A link's state and its registers -/

theorem findKey_putKey_self {α : Type} (k : Nat) (v : α) (l : List (Nat × α)) : findKey k (putKey k v l) = some v := by
  induction l with
  | nil => simp [putKey, findKey]
  | cons c t ih =>
    obtain ⟨k', v'⟩ := c
    rw [putKey]
    split_ifs with hlt heq
    · simp [findKey]
    · simp [findKey]
    · simp [findKey, heq, hlt, ih]

@[simp] theorem Dev.link_modLink (d : Dev) (i : Nat) (f : LinkSt → LinkSt) : (d.modLink i f).link i = f (d.link i) := by
  simp [Dev.modLink, Dev.setLink, Dev.link, tget, tput, findKey_putKey_self]

@[simp] theorem Dev.modLink_mem (d : Dev) (i : Nat) (f : LinkSt → LinkSt) : (d.modLink i f).mem = d.mem := rfl
@[simp] theorem Dev.modLink_out (d : Dev) (i : Nat) (f : LinkSt → LinkSt) : (d.modLink i f).out = d.out := rfl
@[simp] theorem Dev.rd_modLink (d : Dev) (i : Nat) (f : LinkSt → LinkSt) (pg : Page) (o lo : Nat) :
    (d.modLink i f).rd pg o lo = d.rd pg o lo := rfl
@[simp] theorem Dev.link_emit (d : Dev) (x : Out) (i : Nat) : (d.emit x).link i = d.link i := rfl
@[simp] theorem Dev.link_quiet (d : Dev) (i : Nat) : d.quiet.link i = d.link i := rfl
@[simp] theorem Dev.quiet_mem (d : Dev) : d.quiet.mem = d.mem := rfl
@[simp] theorem Dev.quiet_out (d : Dev) : d.quiet.out = [] := rfl
theorem Dev.linkCarries_quiet (d : Dev) (i : Nat) : d.quiet.linkCarries i = d.linkCarries i := rfl
@[simp] theorem Dev.link_settle (d : Dev) (i : Nat) : d.settle.link i = d.link i := by
  rw [Dev.link, Dev.settle_links, ← Dev.link]

/-- No register of a link is changed by the end of a command. -/
theorem link_not_settleKeys (i o lo : Nat) : fieldKey ((Page.link i).base + o) lo ∉ settleKeys := by
  simp only [settleKeys, fieldKey, Page.base, List.mem_cons, List.not_mem_nil, or_false, not_or]
  omega

/-! ### A flit takes a position of a link (R296) -/

theorem Dev.putFlit_of_none {d : Dev} {i : Nat} (h : (d.link i).half = none) (f : Nat) :
    d.putFlit i f = d.modLink i fun s => { s with half := some f } := by
  rw [Dev.putFlit, h]

theorem Dev.putFlit_of_some {d : Dev} {i a : Nat} (h : (d.link i).half = some a) (f : Nat) :
    d.putFlit i f = (d.modLink i fun s => { s with half := none, due := 0 }).emit
      (.codeword i (mkCodeword (d.link i).word a f)) := by
  rw [Dev.putFlit, h]

/-- Whichever position the flit takes, memory and registers stay as they were. -/
theorem Dev.putFlit_keeps (d : Dev) (i f : Nat) :
    (d.putFlit i f).mem = d.mem ∧ ∀ pg o lo, (d.putFlit i f).rd pg o lo = d.rd pg o lo := by
  cases hhalf : (d.link i).half with
  | none => rw [Dev.putFlit_of_none hhalf]; exact ⟨rfl, fun _ _ _ => rfl⟩
  | some a => rw [Dev.putFlit_of_some hhalf]; exact ⟨rfl, fun _ _ _ => rfl⟩

theorem exec_linkTransmit (i : Nat) (wait : Option Wait) (s : State) :
    exec (.linkTransmit i wait) s = .next { s with dev := (doLinkTransmit i wait s.dev.quiet).settle } := rfl

/-- With 32 flits unacknowledged an idle flit takes the position (R301). -/
theorem doLinkTransmit_of_full {d : Dev} {i : Nat} (hcarries : d.linkCarries i = true)
    (hfull : 32 ≤ (d.link i).replay.length) (wait : Option Wait) :
    doLinkTransmit i wait d = d.putFlit i idleFlit := by
  simp [doLinkTransmit, hcarries, hfull]

/-- Settles O55: a flit and a codeword are their parts one above the other, a control word is the sum of its fields, and
a link with 32 unacknowledged flits puts an idle flit in its next position. That a codeword carries the control word of
the moment when its flit B is placed is the model's choice (log 111). -/
theorem flitsLaidOut : Obligations.FlitsLaidOut := by
  unfold Obligations.FlitsLaidOut
  refine ⟨?flit, ?codeword, ?controlWord, ?limit⟩
  case flit =>
    intro seq vc body f hseq hvc hbody hf
    rw [hf]
    refine ⟨mkFlit_lt hseq hvc hbody, flitSeq_mkFlit hseq hvc hbody, flitVc_mkFlit hseq hvc hbody,
      flitIdle_mkFlit hseq hvc hbody, bits_mkFlit_reserved hseq hvc hbody, flitBody_mkFlit hseq hvc hbody, ?_,
      flitCrcOk_mkFlit hseq hvc hbody⟩
    rw [take_leBytes_mkFlit hseq hvc hbody, bits_mkFlit_crc hseq hvc hbody]
  case codeword =>
    intro word a b hword ha hb
    exact ⟨bits_mkCodeword_word hword ha hb, bits_mkCodeword_flitA hword ha hb, bits_mkCodeword_flitB hword ha hb,
      mkCodeword_lt hword ha hb⟩
  case controlWord =>
    intro l k0 k1 k2 h0 h1 h2 hdue
    obtain ⟨hack, hheard, hnak, hrest⟩ := l.word_laidOut h0 h1 h2 hdue
    refine ⟨hack, ?_, ?_, hrest⟩
    · rw [bit_eq_bits, hheard]
      cases l.heard <;> rfl
    · rw [bit_eq_bits, hnak]
      cases l.nak <;> rfl
  case limit =>
    intro s i wait _ hcarries hfull
    obtain ⟨hmem, hrd⟩ := s.dev.quiet.putFlit_keeps i idleFlit
    have hidle : doLinkTransmit i wait s.dev.quiet = s.dev.quiet.putFlit i idleFlit :=
      doLinkTransmit_of_full ((s.dev.linkCarries_quiet i).trans hcarries) hfull wait
    refine ⟨(s.dev.quiet.putFlit i idleFlit).settle, by rw [exec_linkTransmit, hidle], ?_, ?_, ?_, ?_⟩
    · rw [Dev.settle_mem, hmem, Dev.quiet_mem]
    · rw [Dev.rd_settle _ _ _ _ (link_not_settleKeys i _ _), hrd, Dev.rd_quiet]
    · intro hnone
      rw [Dev.putFlit_of_none (d := s.dev.quiet) hnone]
      simp
    · intro a hsome
      rw [Dev.putFlit_of_some (d := s.dev.quiet) hsome]
      simp

end Sys2Proof.Machine
end
